-- ==== Sys2Proof/Word.lean ====
section
/-! DEFINITION. The word types of the block (R13): 8-bit registers, 16-bit command, primitive and
response words, 5-bit status codes. Values are unsigned and bit 0 is the least significant (R14). -/

namespace Sys2Proof

/-- An 8-bit register value, data byte, or callback reference (R13). -/
abbrev Byte := BitVec 8

/-- A command word, a primitive word or a response word (R13, R80, R83). -/
abbrev Word16 := BitVec 16

/-- The five status-code bits `STAT[7:3]` (R13, R33). -/
abbrev Code5 := BitVec 5

/-- A bit number inside an 8-bit register (R82). -/
abbrev BitIx := BitVec 3

end Sys2Proof
end

