-- ==== Sys2Proof/Syntax.lean ====
section
/-! DEFINITION. The instructions of the block: the 15 operations of the command port (format C, R88) and
the 6 register-access primitives of the register port (format R, R89), with the registers they name.

A format C constructor holds the three operand fields of its command word, `SV`, `DV` and `ARG` (R81),
also where the operation ignores them (R91): these are the fields the sequencer record keeps (R40), and
with them an encoded word is recovered bit for bit. A format R constructor holds the register it names
and its assembled operand; `RD` keeps its ignored `ARG`. -/

namespace Sys2Proof

/-- The five device registers, in index order 0 to 4 (R21). Indices 5 to 7 name no register. -/
inductive Reg where
  | ctrl | data | oaddr | stat | brg
  deriving DecidableEq, Repr

/-- The two ports; the port a word arrives on tells its format (R80). -/
inductive Port where
  | command | register
  deriving DecidableEq, Repr

/-- One word handed to the block by its host, with the port it is handed to (R80). -/
structure PortWord where
  port : Port
  word : Word16
  deriving DecidableEq, Repr

/-- The 21 instructions (R8): one constructor per row of `spec/opcode_table.json`. -/
inductive Instr where
  /-- `INIT`, R130. -/
  | init (sv dv : Bool) (arg : Byte)
  /-- `START`, R140. -/
  | start (sv dv : Bool) (arg : Byte)
  /-- `RSTART`, R141. -/
  | rstart (sv dv : Bool) (arg : Byte)
  /-- `SLAW addr`, R142. -/
  | slaw (sv dv : Bool) (arg : Byte)
  /-- `SLAR addr`, R143. -/
  | slar (sv dv : Bool) (arg : Byte)
  /-- `MTX byte`, R144. -/
  | mtx (sv dv : Bool) (arg : Byte)
  /-- `MRX directive`, R145. -/
  | mrx (sv dv : Bool) (arg : Byte)
  /-- `STOP`, R146. -/
  | stop (sv dv : Bool) (arg : Byte)
  /-- `SWAIT`, R150. -/
  | swait (sv dv : Bool) (arg : Byte)
  /-- `SRX directive`, R151. -/
  | srx (sv dv : Bool) (arg : Byte)
  /-- `STX byte`, R152. -/
  | stx (sv dv : Bool) (arg : Byte)
  /-- `CLRF`, R181. -/
  | clrf (sv dv : Bool) (arg : Byte)
  /-- `IEN`, R182. -/
  | ien (sv dv : Bool) (arg : Byte)
  /-- `IDIS`, R183. -/
  | idis (sv dv : Bool) (arg : Byte)
  /-- `SETCB h`, R184. -/
  | setcb (sv dv : Bool) (arg : Byte)
  /-- `RD reg`, R121; `arg` is the ignored `ARG` field (R82). -/
  | rd (reg : Reg) (arg : Byte)
  /-- `WR reg, byte`, R122. -/
  | wr (reg : Reg) (v : Byte)
  /-- `SETB reg, bit`, R123. -/
  | setb (reg : Reg) (i : BitIx)
  /-- `CLRB reg, bit`, R124. -/
  | clrb (reg : Reg) (i : BitIx)
  /-- `WRB reg, bit, value`, R125. -/
  | wrb (reg : Reg) (i : BitIx) (b : Bool)
  /-- `GETB reg, bit`, R126. -/
  | getb (reg : Reg) (i : BitIx)
  deriving DecidableEq, Repr

end Sys2Proof
end

