-- ==== Sys2Proof/Config.lean ====
section
/-! DEFINITION. What is fixed for one block (the Bus Configuration of R10 and the model parameters of
R12), and the free values: constants with no body, of which no proof can know anything, for every
`draw` of the spec (R16) and for the choices of the BUS oracle (R9, R194). -/

namespace Sys2Proof

/-- The prescaler multipliers 1, 4, 16 and 64 (R10, R35). -/
inductive Prescaler where
  | by1 | by4 | by16 | by64
  deriving DecidableEq, Repr

/-- The controller-versus-responder build selection (R3, R10). It restricts no instruction (R11). -/
inductive Role where
  | controller | responder
  deriving DecidableEq, Repr

/-- Which engine events the BUS oracle may produce (R12, R190 to R209). -/
inductive EngineModel where
  | unconstrained | nominal
  deriving DecidableEq, Repr

/-- What delivery to an empty callback slot does (R12, R222). -/
inductive EmptySlotPolicy where
  | fault | noop
  deriving DecidableEq, Repr

/-- The generic error member of controller send-data (R12, R170). -/
inductive MsendErr where
  | dataError | addressError
  deriving DecidableEq, Repr

/-- The engine phase of the nominal engine (R41, R199). -/
inductive Phase where
  | idle | mStart | mt | mr | sr | srGc | st
  deriving DecidableEq, Repr, Inhabited

/-- Which agent takes the next step (R9) and, for the engine, with which parameters (R192). -/
inductive Choice where
  /-- The active context moves: its host issues an instruction, or its sequencer takes a micro-step. -/
  | seq
  /-- The engine completes a bus action, `E-COMPLETE(code, rx)`, R192. -/
  | complete (code : Code5) (rx : Option Byte)
  /-- The engine acts on a stop request, `E-STOP`, R193. -/
  | stop
  /-- The interrupt delivery path starts the handler, R220. -/
  | deliver
  /-- The external reset event, R240. -/
  | reset
  deriving DecidableEq, Repr, Inhabited

/-- The parameters of one block: the Bus Configuration (R10) and the model parameters (R12).
`F_CORE` is the argument of `Sys2Proof.Machine.busClock`; `REG_BASE` is `Config.regBase`. -/
structure Config where
  /-- `RATE`, written to `BRG` by `INIT`. -/
  rate : Byte
  /-- `PRESCALER`, its pattern written to `STAT.PS` by `INIT`. -/
  prescaler : Prescaler
  /-- `OWN_ADDR`, written to `OADDR[7:1]` by `INIT`. -/
  ownAddr : BitVec 7
  /-- `GC_EN`, written to `OADDR[0]` by `INIT`. -/
  gcEn : Bool
  /-- `ROLE`. -/
  role : Role
  /-- `HANDLERS`: the finite programs a callback reference names; the first entry of an id counts. -/
  handlers : List (Byte × List PortWord)
  /-- `ENGINE_MODEL`. -/
  engine : EngineModel
  /-- `EMPTY_SLOT_POLICY`. -/
  emptySlot : EmptySlotPolicy
  /-- `MSEND_ERR`. -/
  msendErr : MsendErr
  deriving DecidableEq, Repr

/-- Free value: the byte of the n-th `draw(byte)`, for a collided write of `DATA` (R31, R120) and for
the registers the reset event leaves unspecified (R46, R240). Log entry 3. -/
opaque Config.freeByte : Nat → Byte

/-- Free value: the phase of the n-th draw of R208. Log entry 3. -/
opaque Config.freePhase : Nat → Phase

/-- Free value: which agent takes the n-th step, and with which code and byte, where the state holds no
schedule of its own (R9, R194, R219). Log entry 2. -/
opaque Config.freeChoice : Nat → Choice

/-- `REG_BASE`: the platform address of each register (R12, R61). Open; no rule reads it. -/
opaque Config.regBase : Reg → Nat

end Sys2Proof
end

