-- ==== Sys2Proof/WellFormed.lean ====
section
/-! DEFINITION. Well-formedness of the configuration (R11): the block does not exist for a configuration
that fails it, and a step of it is refused. The prescaler's domain (1, 4, 16, 64) is the type
`Prescaler`. An instruction needs no check of its own: register, bit number and port are types that
hold nothing but what R82 allows, and a word that R90 reserves decodes to no instruction. -/

namespace Sys2Proof

/-- `ROLE = responder or RATE ≥ 10` (R11). -/
def Config.rateOk (c : Config) : Bool :=
  match c.role with
  | .responder => true
  | .controller => decide (10 ≤ c.rate.toNat)

/-- `0x01 ≤ OWN_ADDR ≤ 0x77` (R11, R95). -/
def Config.addrOk (c : Config) : Bool :=
  decide (0x01 ≤ c.ownAddr.toNat) && decide (c.ownAddr.toNat ≤ 0x77)

/-- The configuration is well formed (R11). -/
def Config.wf (c : Config) : Bool := c.rateOk && c.addrOk

end Sys2Proof
end

