-- ==== Sys2Proof/Decode.lean ====
section
/-! DEFINITION. Decoding of the two 16-bit formats (R80 to R82, R88 to R91), total on every word of each
port, and the encoder (R98) written from the same tables. A reserved word (R90) is rejected by name;
what the block then answers is `Sys2Proof.Machine.raiseInvalidCall` (R210). -/

namespace Sys2Proof

/-- Why a word is reserved (R90, R211). -/
inductive Reserved where
  /-- IC5: `OP = 0xF`. -/
  | op
  /-- IC6: `Z ≠ 00`. -/
  | zField
  /-- IC7: `PRIM ∈ {6, 7}`. -/
  | prim
  /-- IC7: `REG ∈ {5, 6, 7}`. -/
  | reg
  /-- IC7: non-zero upper `ARG` bits of a bit primitive. -/
  | argHigh
  deriving DecidableEq, Repr

/-- The answer of the decoder. -/
inductive Decoded where
  | instr (i : Instr)
  | reserved (r : Reserved)
  deriving DecidableEq, Repr

/-- The instruction of an answer, if it is one. -/
def Decoded.toOption : Decoded → Option Instr
  | .instr i => some i
  | .reserved _ => none

/-- The register an index names (R21, R61). -/
def regOfIndex (n : BitVec 3) : Option Reg :=
  match n.toNat with
  | 0 => some .ctrl
  | 1 => some .data
  | 2 => some .oaddr
  | 3 => some .stat
  | 4 => some .brg
  | _ => none

/-- The index of a register (R21). -/
def indexOfReg : Reg → BitVec 3
  | .ctrl => 0
  | .data => 1
  | .oaddr => 2
  | .stat => 3
  | .brg => 4

/-- Format C (R81, R88): `OP` 15:12, `SV` 11, `DV` 10, `Z` 9:8, `ARG` 7:0. -/
def decodeCommand (w : Word16) : Decoded :=
  let sv := w.getLsbD 11
  let dv := w.getLsbD 10
  let a : Byte := w.extractLsb' 0 8
  if w.extractLsb' 8 2 = 0#2 then
    match (w.extractLsb' 12 4).toNat with
    | 0 => .instr (.init sv dv a)
    | 1 => .instr (.start sv dv a)
    | 2 => .instr (.rstart sv dv a)
    | 3 => .instr (.slaw sv dv a)
    | 4 => .instr (.slar sv dv a)
    | 5 => .instr (.mtx sv dv a)
    | 6 => .instr (.mrx sv dv a)
    | 7 => .instr (.stop sv dv a)
    | 8 => .instr (.swait sv dv a)
    | 9 => .instr (.srx sv dv a)
    | 10 => .instr (.stx sv dv a)
    | 11 => .instr (.clrf sv dv a)
    | 12 => .instr (.ien sv dv a)
    | 13 => .instr (.idis sv dv a)
    | 14 => .instr (.setcb sv dv a)
    | _ => .reserved .op
  else .reserved .zField

/-- A bit primitive's instruction, where `ARG[7:3] = 0` (R82, R90). -/
def decodeBitOp (a : Byte) (mk : BitIx → Instr) : Decoded :=
  if a.extractLsb' 3 5 = 0#5 then .instr (mk (a.extractLsb' 0 3)) else .reserved .argHigh

/-- Format R (R82, R89): `PRIM` 15:13, `REG` 12:10, `Z` 9:8, `ARG` 7:0. -/
def decodeRegister (w : Word16) : Decoded :=
  let a : Byte := w.extractLsb' 0 8
  if w.extractLsb' 8 2 = 0#2 then
    match regOfIndex (w.extractLsb' 10 3) with
    | none => .reserved .reg
    | some r =>
      match (w.extractLsb' 13 3).toNat with
      | 0 => .instr (.rd r a)
      | 1 => .instr (.wr r a)
      | 2 => decodeBitOp a (.setb r)
      | 3 => decodeBitOp a (.clrb r)
      | 4 =>
        if a.extractLsb' 4 4 = 0#4 then .instr (.wrb r (a.extractLsb' 0 3) (a.getLsbD 3))
        else .reserved .argHigh
      | 5 => decodeBitOp a (.getb r)
      | _ => .reserved .prim
  else .reserved .zField

/-- The word's meaning by the port it arrives on (R80). -/
def decode (p : Port) (w : Word16) : Decoded :=
  match p with
  | .command => decodeCommand w
  | .register => decodeRegister w

/-- `(OP << 12) | (SV << 11) | (DV << 10) | ARG` (R98). -/
def encodeC (op : BitVec 4) (sv dv : Bool) (arg : Byte) : Word16 :=
  op ++ BitVec.ofBool sv ++ BitVec.ofBool dv ++ 0#2 ++ arg

/-- `(PRIM << 13) | (REG << 10) | ARG` (R98). -/
def encodeR (prim : BitVec 3) (r : Reg) (arg : Byte) : Word16 :=
  prim ++ indexOfReg r ++ 0#2 ++ arg

/-- The port an instruction is accepted on (R80, R88, R89). -/
def portOf : Instr → Port
  | .init _ _ _ | .start _ _ _ | .rstart _ _ _ | .slaw _ _ _ | .slar _ _ _ | .mtx _ _ _
  | .mrx _ _ _ | .stop _ _ _ | .swait _ _ _ | .srx _ _ _ | .stx _ _ _ | .clrf _ _ _
  | .ien _ _ _ | .idis _ _ _ | .setcb _ _ _ => .command
  | .rd _ _ | .wr _ _ | .setb _ _ | .clrb _ _ | .wrb _ _ _ | .getb _ _ => .register

/-- The word of an instruction (R88, R89, R98). -/
def encode : Instr → Word16
  | .init sv dv a => encodeC 0 sv dv a
  | .start sv dv a => encodeC 1 sv dv a
  | .rstart sv dv a => encodeC 2 sv dv a
  | .slaw sv dv a => encodeC 3 sv dv a
  | .slar sv dv a => encodeC 4 sv dv a
  | .mtx sv dv a => encodeC 5 sv dv a
  | .mrx sv dv a => encodeC 6 sv dv a
  | .stop sv dv a => encodeC 7 sv dv a
  | .swait sv dv a => encodeC 8 sv dv a
  | .srx sv dv a => encodeC 9 sv dv a
  | .stx sv dv a => encodeC 10 sv dv a
  | .clrf sv dv a => encodeC 11 sv dv a
  | .ien sv dv a => encodeC 12 sv dv a
  | .idis sv dv a => encodeC 13 sv dv a
  | .setcb sv dv a => encodeC 14 sv dv a
  | .rd r a => encodeR 0 r a
  | .wr r v => encodeR 1 r v
  | .setb r i => encodeR 2 r (0#5 ++ i)
  | .clrb r i => encodeR 3 r (0#5 ++ i)
  | .wrb r i b => encodeR 4 r (0#4 ++ BitVec.ofBool b ++ i)
  | .getb r i => encodeR 5 r (0#5 ++ i)

/-- The port and word of an instruction, as its host hands it over. -/
def encodePort (i : Instr) : PortWord := ⟨portOf i, encode i⟩

/-- The instruction the decoder reads from the low 16 bits of an opcode-table word. The table's 16 bits
do not tell the port (R80) and the two formats overlap; this reads the COMMAND port (log entry 15). The
six format R rows are read by `decode .register`. -/
def decodeTableWord (nbits w : Nat) : Option Instr :=
  (decode .command (BitVec.ofNat 16 (w % 2 ^ nbits))).toOption

/-! Each constructor's decoding, on a word written out from the encoding tables (R88, R89, R98); the
words are those of `95_test_vectors.md` section 2.1. -/

theorem decode_word_init : decode .command 0x0000#16 = .instr (.init false false 0x00#8) := by decide
theorem decode_word_start : decode .command 0x1800#16 = .instr (.start true false 0x00#8) := by decide
theorem decode_word_rstart : decode .command 0x2800#16 = .instr (.rstart true false 0x00#8) := by decide
theorem decode_word_slaw : decode .command 0x3803#16 = .instr (.slaw true false 0x03#8) := by decide
theorem decode_word_slar : decode .command 0x4803#16 = .instr (.slar true false 0x03#8) := by decide
theorem decode_word_mtx : decode .command 0x5842#16 = .instr (.mtx true false 0x42#8) := by decide
theorem decode_word_mrx : decode .command 0x6C01#16 = .instr (.mrx true true 0x01#8) := by decide
theorem decode_word_stop : decode .command 0x7000#16 = .instr (.stop false false 0x00#8) := by decide
theorem decode_word_swait : decode .command 0x8800#16 = .instr (.swait true false 0x00#8) := by decide
theorem decode_word_srx : decode .command 0x9C01#16 = .instr (.srx true true 0x01#8) := by decide
theorem decode_word_stx : decode .command 0xA805#16 = .instr (.stx true false 0x05#8) := by decide
theorem decode_word_clrf : decode .command 0xB000#16 = .instr (.clrf false false 0x00#8) := by decide
theorem decode_word_ien : decode .command 0xC000#16 = .instr (.ien false false 0x00#8) := by decide
theorem decode_word_idis : decode .command 0xD000#16 = .instr (.idis false false 0x00#8) := by decide
theorem decode_word_setcb : decode .command 0xE001#16 = .instr (.setcb false false 0x01#8) := by decide
theorem decode_word_rd : decode .register 0x0C00#16 = .instr (.rd .stat 0x00#8) := by decide
theorem decode_word_wr : decode .register 0x300C#16 = .instr (.wr .brg 0x0C#8) := by decide
theorem decode_word_setb : decode .register 0x4007#16 = .instr (.setb .ctrl 7#3) := by decide
theorem decode_word_clrb : decode .register 0x6005#16 = .instr (.clrb .ctrl 5#3) := by decide
theorem decode_word_wrb : decode .register 0x8C09#16 = .instr (.wrb .stat 1#3 true) := by decide
theorem decode_word_getb : decode .register 0xA004#16 = .instr (.getb .ctrl 4#3) := by decide

end Sys2Proof
end

