-- ==== Sys2Proof/Machine/State.lean ====
section
/-! DEFINITION. The state of the block and of the agents around it, as plain data (R20, R37 to R41, R45),
the reasons a step can stop, and the state after reset (R46, R240). -/

namespace Sys2Proof.Machine

/-- `CTRL`, the control register (R22): its seven stored bits. Bit 1, `RSV1`, is hard-wired to 0 (R29)
and has no field; `readReg` composes the byte. -/
structure Ctrl where
  /-- Bit 7, the completion flag, R23. -/
  int : Bool
  /-- Bit 6, auto-acknowledge enable, R24. -/
  ea : Bool
  /-- Bit 5, start request, R25. -/
  sta : Bool
  /-- Bit 4, stop request, R26. -/
  sto : Bool
  /-- Bit 3, write-collision flag, R27. -/
  wc : Bool
  /-- Bit 2, peripheral enable, R28. -/
  en : Bool
  /-- Bit 0, interrupt enable, R30. -/
  ie : Bool
  deriving DecidableEq, Repr

/-- `STAT`, the status register (R33): its stored bits. Bit 2, `RSV2`, is hard-wired to 0. -/
structure Stat where
  /-- Bits 7:3, the status code, R34. -/
  sc5 : Code5
  /-- Bits 1:0, the prescaler select, R35. -/
  ps : BitVec 2
  deriving DecidableEq, Repr

/-- The Transaction Status, "a closed enumeration of outcomes" (R86). -/
inductive Ts where
  | startSent | startError | repStartSent | repStartError | ackReceived | nackReceived
  | arbitrationLost | addressError | dataError | ackSent | nackSent
  deriving DecidableEq, Repr

/-- The response of an instruction (R83): `invalidCall` is `RC = 1`, `ok ts d` is `RC = 0` with `STV` and
`TS` from `ts` and `DAV` and `DATA8` from `d`. -/
inductive Resp where
  | invalidCall
  | ok (ts : Option Ts) (d : Option Byte)
  deriving DecidableEq, Repr

/-- The two execution contexts (R39, R229). -/
inductive Ctx where
  | main | hnd
  deriving DecidableEq, Repr

/-- The values an operation has read so far (R40). -/
structure Tmp where
  /-- The polled flag bit `b` of `WAIT` (R163). -/
  b : Bool
  /-- The status byte `s` (R164). -/
  s : Byte
  /-- The data byte `d` (R164). -/
  d : Byte
  deriving DecidableEq, Repr

/-- `tmp` when an operation begins; no rule reads a value of it before its own step has written it
(log entry 23). -/
def Tmp.zero : Tmp := ⟨false, 0, 0⟩

/-- A sequencer record (R40): idle, or the operation in progress (with `SV`, `DV`, `ARG`), the index of
its next step, and the values read so far. -/
inductive Seq where
  | idle
  | run (i : Instr) (k : Nat) (tmp : Tmp)
  deriving DecidableEq, Repr

/-- One flow of instructions outside the block, the main flow's or the handler's (R9, R224): what it has
still to issue, the last response it got, and its two sinks (R83, R258). -/
structure Flow where
  prog : List PortWord
  resp : Option Resp
  stSink : Option Ts
  daSink : Option Byte
  deriving DecidableEq, Repr

/-- The whole state. -/
structure State where
  /-- `CTRL`, R22. -/
  ctrl : Ctrl
  /-- `DATA`, R31. -/
  data : Byte
  /-- `OADDR`, R32. -/
  oaddr : Byte
  /-- `STAT`, R33. -/
  stat : Stat
  /-- `BRG`, R36. -/
  brg : Byte
  /-- The callback slot, R37; 0 is the empty slot. -/
  cb : Byte
  /-- The interrupt-pending latch `irq_pend`, R38. -/
  irqPend : Bool
  /-- The context flag `in_handler`, R39. -/
  inHandler : Bool
  /-- `seq[Main]`, R40. -/
  seqMain : Seq
  /-- `seq[Hnd]`, R40. -/
  seqHnd : Seq
  /-- The engine phase, R41; only `ENGINE_MODEL = nominal` reads or writes it. -/
  phase : Phase
  /-- The parameters of the block, R10, R12, R45; no step writes them. -/
  cfg : Config
  /-- `HOST-MAIN`, R9. -/
  hostMain : Flow
  /-- `HANDLER`, R9. -/
  hostHnd : Flow
  /-- The model's own: the choices the next steps take, first one first (log entry 2). -/
  sched : List Choice
  /-- The model's own: how many steps have been taken (log entry 2). -/
  tick : Nat
  /-- The model's own: how many values have been drawn (log entry 3). -/
  draws : Nat
  deriving DecidableEq, Repr

/-- Why the machine stops with a fault (R17, R215). -/
inductive Fault where
  /-- Raised by `deliver` under `EMPTY_SLOT_POLICY = fault`: the interrupt is delivered while the callback
  slot is empty (R222). Safe: the run stops where real hardware does something unknown. -/
  | emptySlotDelivery
  deriving DecidableEq, Repr

/-- Why the model has no meaning for a step (R17, R215). -/
inductive Refusal where
  /-- Raised by an arm of `exec` that has no meaning yet; none is left. Safe. -/
  | notModelled (mnemonic : String)
  /-- Raised by `step` where the configuration fails `Config.wf`: the block does not exist for it (R11,
  R131). Safe. -/
  | illFormedConfiguration
  /-- Raised by `deliver` where the callback reference is outside the domain of `HANDLERS` (R221). Safe. -/
  | unknownHandler
  /-- Raised by `exec` for an instruction other than the one the active context is running: its host may
  not issue it (R250). No step raises it. Safe. -/
  | contextBusy
  /-- Raised by `exec` where the step index lies outside the operation's finite step list (R40). No state
  that meets the invariant has such an index. Safe. -/
  | noSuchStep
  deriving DecidableEq, Repr

/-- A flow with nothing to issue and nothing received. -/
def Flow.empty : Flow := ⟨[], none, none, none⟩

/-- The configuration of the state after reset: the Bus Configuration of program P1 (log entry 6) and the
defaults of R12. -/
def resetConfig : Config where
  rate := 32
  prescaler := .by1
  ownAddr := 0x10
  gcEn := false
  role := .controller
  handlers := []
  engine := .unconstrained
  emptySlot := .fault
  msendErr := .dataError

/-- `x[CTRL] = 0x00` (R46, R240). -/
def Ctrl.reset : Ctrl := ⟨false, false, false, false, false, false, false⟩

/-- The state after reset (R46, R240, R241). `DATA`, `OADDR`, `STAT`, `BRG` hold the values of G4 (log entry
4): the spec leaves them unspecified. -/
def State.reset : State where
  ctrl := Ctrl.reset
  data := 0xFF
  oaddr := 0xFE
  stat := ⟨0b11111, 0b00⟩
  brg := 0x00
  cb := 0
  irqPend := false
  inHandler := false
  seqMain := .idle
  seqHnd := .idle
  phase := .idle
  cfg := resetConfig
  hostMain := Flow.empty
  hostHnd := Flow.empty
  sched := []
  tick := 0
  draws := 0

end Sys2Proof.Machine
end

