-- ==== Sys2Proof/Machine/Access.lean ====
section
/-! DEFINITION. The active context, its sequencer record and its flow (R39, R40, R229), and the bit-field
helpers of R14. -/

namespace Sys2Proof.Machine

/-- The context that runs: the handler's from a delivery until the handler program has finished (R39). -/
def activeCtx (s : State) : Ctx := if s.inHandler then .hnd else .main

/-- `seq[c]` of the active context (R40). -/
def activeSeq (s : State) : Seq := if s.inHandler then s.seqHnd else s.seqMain

/-- Set `seq[c]` of the active context; the other context's record is frozen (R223). -/
def setActive (q : Seq) (s : State) : State :=
  if s.inHandler then { s with seqHnd := q } else { s with seqMain := q }

/-- The flow that issues instructions in the active context. -/
def activeFlow (s : State) : Flow := if s.inHandler then s.hostHnd else s.hostMain

/-- Set the flow of the active context. -/
def setFlow (f : Flow) (s : State) : State :=
  if s.inHandler then { s with hostHnd := f } else { s with hostMain := f }

/-- `v` with bit `i` replaced by `b` (R14, R120). -/
def withBit {w : Nat} (v : BitVec w) (i : Nat) (b : Bool) : BitVec w :=
  if b then v ||| BitVec.twoPow w i else v &&& ~~~(BitVec.twoPow w i)

/-- An 8-bit status code from its five bits: the low three bits are zero (R34, R192). -/
def codeByte (c : Code5) : Byte := c ++ 0#3

end Sys2Proof.Machine
end

