-- ==== Sys2Proof/Machine/Flags.lean ====
section
/-! DEFINITION. The two hardware status flags, `CTRL.INT` and `CTRL.WC` (R43), the interrupt-pending latch
that goes with the first, and the write of `DATA` that computes the second. -/

namespace Sys2Proof.Machine

/-- Clearing the completion flag, by a 1 written to `CTRL` bit 7 (R23, R67 a); it clears `irq_pend` too
(R38). -/
def clearFlag (s : State) : State := { s with ctrl := { s.ctrl with int := false }, irqPend := false }

/-- Raising the completion flag and the latch, at `E-COMPLETE` only (R38, R192). -/
def raiseFlag (s : State) : State := { s with ctrl := { s.ctrl with int := true }, irqPend := true }

/-- `data_write(new)` (R120): with `INT = 1` the byte lands and `WC` is cleared; with `INT = 0` `WC` is set
and `DATA` holds a free value (R27, R31, R67 b). -/
def dataWrite (v : Byte) (s : State) : State :=
  if s.ctrl.int then
    { s with data := v, ctrl := { s.ctrl with wc := false } }
  else
    { s with data := Config.freeByte s.draws, ctrl := { s.ctrl with wc := true }, draws := s.draws + 1 }

end Sys2Proof.Machine
end

