-- ==== Sys2Proof/Machine/Ops.lean ====
section
/-! DEFINITION. The named operations over the register space (R15, R60, R120 to R126), the response to the
host (R16, R83), the one synchronous exception (R210), interrupt entry and return (R220 to R225), and the
reset event (R240). -/

namespace Sys2Proof.Machine

/-! ## The register space -/

/-- `x[r]` composed from its fields, reserved bits reading 0 (R121); no side effect (R66). -/
def readReg (r : Reg) (s : State) : Byte :=
  match r with
  | .ctrl =>
    BitVec.ofBool s.ctrl.int ++ BitVec.ofBool s.ctrl.ea ++ BitVec.ofBool s.ctrl.sta ++
      BitVec.ofBool s.ctrl.sto ++ BitVec.ofBool s.ctrl.wc ++ BitVec.ofBool s.ctrl.en ++ 0#1 ++
      BitVec.ofBool s.ctrl.ie
  | .data => s.data
  | .oaddr => s.oaddr
  | .stat => s.stat.sc5 ++ 0#1 ++ s.stat.ps
  | .brg => s.brg

/-- A write of `CTRL.EN`; a 0 stops the engine and, under `nominal`, sends the phase to `IDLE` (R28, R120). -/
def writeEnable (b : Bool) (s : State) : State :=
  { s with
    ctrl := { s.ctrl with en := b }
    phase := if b = false ∧ s.cfg.engine = .nominal then .idle else s.phase }

/-- `store_bit(CTRL, i, b)` (R120): write-one-to-clear on bit 7, bits 3 and 1 ignored. -/
def storeCtrlBit (i : BitIx) (b : Bool) (s : State) : State :=
  match i.toNat with
  | 7 => if b then clearFlag s else s
  | 6 => { s with ctrl := { s.ctrl with ea := b } }
  | 5 => { s with ctrl := { s.ctrl with sta := b } }
  | 4 => { s with ctrl := { s.ctrl with sto := b } }
  | 2 => writeEnable b s
  | 0 => { s with ctrl := { s.ctrl with ie := b } }
  | _ => s

/-- `store_bit(r, i, b)` (R120). A write of `DATA` goes through `dataWrite`; `STAT` bits above `PS` ignore
the write (R33). -/
def storeBit (r : Reg) (i : BitIx) (b : Bool) (s : State) : State :=
  match r with
  | .ctrl => storeCtrlBit i b s
  | .stat => if i.toNat ≤ 1 then { s with stat := { s.stat with ps := withBit s.stat.ps i.toNat b } } else s
  | .oaddr => { s with oaddr := withBit s.oaddr i.toNat b }
  | .brg => { s with brg := withBit s.brg i.toNat b }
  | .data => dataWrite (withBit s.data i.toNat b) s

/-- `MemWrite(r, 1, v)` (R122): `data_write` for `DATA`, else `store_bit` for bits 7 down to 0, one atomic
step. -/
def memWrite (r : Reg) (v : Byte) (s : State) : State :=
  match r with
  | .data => dataWrite v s
  | r => [7#3, 6#3, 5#3, 4#3, 3#3, 2#3, 1#3, 0#3].foldl (fun s i => storeBit r i (v.getLsbD i.toNat) s) s

/-- `SetBit(r, i)` (R123). -/
def setBit (r : Reg) (i : BitIx) (s : State) : State := storeBit r i true s

/-- `ClrBit(r, i)` (R124). -/
def clrBit (r : Reg) (i : BitIx) (s : State) : State := storeBit r i false s

/-- `WrBit(r, i, b)` (R125). -/
def wrBit (r : Reg) (i : BitIx) (b : Bool) (s : State) : State :=
  if b then setBit r i s else clrBit r i s

/-- `GetBit(r, i)` (R126). -/
def getBit (r : Reg) (i : BitIx) (s : State) : Bool := (readReg r s).getLsbD i.toNat

/-! ## Responses -/

/-- A response reaches the flow: the status sink is written when `STV = 1`, the data sink when `DAV = 1`,
else they are left untouched (R83). -/
def Flow.receive (r : Resp) (f : Flow) : Flow :=
  match r with
  | .invalidCall => { f with resp := some .invalidCall }
  | .ok ts d =>
    { f with
      resp := some (.ok ts d)
      stSink := ts <|> f.stSink
      daSink := d <|> f.daSink }

/-- `respond(...)` (R16): the active context's sequencer returns to `Idle` (R40) and its flow receives the
response. -/
def respond (r : Resp) (s : State) : State :=
  setFlow ((activeFlow s).receive r) (setActive .idle s)

/-- `raise InvalidCall` (R210): the response `RC = 1, STV = 0, DAV = 0`, and no other state change. Nothing
is saved and control goes nowhere. -/
def raiseInvalidCall (s : State) : State := respond .invalidCall s

/-! ## The completion interrupt -/

/-- The delivery guard (R220). -/
def deliveryEnabled (s : State) : Bool := s.irqPend && s.ctrl.ie && !s.inHandler

/-- The program of a handler reference, if it is in the domain of `HANDLERS` (R12, R221): that of the first pair
with its id (log entry 7). -/
def handlerProgram (h : Byte) (hs : List (Byte × List PortWord)) : Option (List PortWord) :=
  (hs.find? fun p => p.1 = h).map Prod.snd

/-- Interrupt entry (R221, R222, R223): atomically `irq_pend` is cleared and the reference in the slot is
read; a registered handler starts at its first instruction with `in_handler` set and nothing saved or
written besides; an empty slot faults or is ignored by `EMPTY_SLOT_POLICY`; a reference outside `HANDLERS`
is refused. -/
def deliver (s : State) : Host.Outcome State Fault Refusal :=
  if s.cb = 0 then
    match s.cfg.emptySlot with
    | .fault => .fault .emptySlotDelivery
    | .noop => .next { s with irqPend := false }
  else
    match handlerProgram s.cb s.cfg.handlers with
    | none => .refused .unknownHandler
    | some p =>
      .next { s with
        irqPend := false
        inHandler := true
        seqHnd := .idle
        hostHnd := { s.hostHnd with prog := p } }

/-- Return from the handler (R225): `seq[Hnd]` is `Idle`, `in_handler` is cleared, nothing is restored. -/
def handlerReturn (s : State) : State := { s with seqHnd := .idle, inHandler := false }

/-! ## Reset -/

/-- The reset event (R240): every piece of the block's state at the value of R46; `DATA`, `OADDR`, `STAT` and
`BRG` are draws. The configuration stays (R10); the main flow keeps what it has still to issue, the
handler's program is dropped with its context (log entry 5). -/
def resetEvent (s : State) : State :=
  { s with
    ctrl := Ctrl.reset
    data := Config.freeByte s.draws
    oaddr := Config.freeByte (s.draws + 1)
    stat := ⟨(Config.freeByte (s.draws + 2)).extractLsb' 3 5, (Config.freeByte (s.draws + 2)).extractLsb' 0 2⟩
    brg := Config.freeByte (s.draws + 3)
    cb := 0
    irqPend := false
    inHandler := false
    seqMain := .idle
    seqHnd := .idle
    phase := .idle
    hostHnd := { s.hostHnd with prog := [] }
    draws := s.draws + 4 }

/-! ## The bus clock -/

/-- `16 + 2 · x[BRG] · 4^STAT.PS`, the divisor of R260. -/
def busDivisor (s : State) : Nat := 16 + 2 * s.brg.toNat * 4 ^ s.stat.ps.toNat

/-- `f_bus` from `F_CORE` (R260). Timing only: no rule reads it. -/
def busClock (fCore : Rat) (s : State) : Rat := fCore / (busDivisor s : Rat)

end Sys2Proof.Machine
end

