-- ==== Sys2Proof/Machine/Operands.lean ====
section
/-! DEFINITION. How the operand fields and the configuration become register values (R84, R85, R94, R95),
and the contract check of step 0 (R160). -/

namespace Sys2Proof.Machine

/-- The byte `SLAW` and `SLAR` load for bus address `a`: `a[6:0] ++ 0`, `a[7]` discarded (R84). -/
def addressByte (a : Byte) : Byte := a <<< 1

/-- The acknowledge directive is one of the two defined (R85). -/
def directiveOk (q : Byte) : Bool := decide (q = 0x00#8) || decide (q = 0x01#8)

/-- `q[0]`, the value a receive operation writes to `CTRL.EA` (R84). -/
def directiveBit (q : Byte) : Bool := q.getLsbD 0

/-- The prescaler pattern `ps` (R94). -/
def prescalerPattern : Prescaler → BitVec 2
  | .by1 => 0b00
  | .by4 => 0b01
  | .by16 => 0b10
  | .by64 => 0b11

/-- The multiplier a prescaler names (R10). -/
def prescalerMultiplier : Prescaler → Nat
  | .by1 => 1
  | .by4 => 4
  | .by16 => 16
  | .by64 => 64

/-- `(OWN_ADDR << 1) | GC_EN` (R95). -/
def ownAddressByte (c : Config) : Byte := (c.ownAddr.zeroExtend 8 <<< 1) ||| (BitVec.ofBool c.gcEn).zeroExtend 8

/-- `CHECK` passes (R160): no null status sink where the operation has a status output, no null data sink and
a defined directive where it receives, a reference where it registers one. It reads the command word only.
`INIT`, `STOP`, `CLRF`, `IEN`, `IDIS` and the register primitives have no violation but a reserved
encoding, which the decoder rejects (R90). -/
def contractOk : Instr → Bool
  | .start sv _ _ | .rstart sv _ _ | .slaw sv _ _ | .slar sv _ _ | .mtx sv _ _ | .swait sv _ _
  | .stx sv _ _ => sv
  | .mrx sv dv q | .srx sv dv q => sv && dv && directiveOk q
  | .setcb _ _ h => decide (h ≠ 0#8)
  | .init _ _ _ | .stop _ _ _ | .clrf _ _ _ | .ien _ _ _ | .idis _ _ _ => true
  | .rd _ _ | .wr _ _ | .setb _ _ | .clrb _ _ | .wrb _ _ _ | .getb _ _ => true

end Sys2Proof.Machine
end

