-- ==== Sys2Proof/Machine/Status.lean ====
section
/-! DEFINITION. The status codes in one table (R92, U15), the numbers of the Transaction Status (R86), the
response word (R83), and the nine decoders (R165 to R174). -/

namespace Sys2Proof.Machine

/-! ## The documented status codes (R92). The pairing of those from `scSrSlaAck` on is general knowledge
(G2, log entry 11). -/

def scStart : Byte := 0x08
def scRstart : Byte := 0x10
def scMtSlaAck : Byte := 0x18
def scMtSlaNack : Byte := 0x20
def scMtDataAck : Byte := 0x28
def scMtDataNack : Byte := 0x30
def scArbLost : Byte := 0x38
def scMrSlaAck : Byte := 0x40
def scMrSlaNack : Byte := 0x48
def scMrDataAck : Byte := 0x50
def scMrDataNack : Byte := 0x58
def scSrSlaAck : Byte := 0x60
def scSrArbSlaAck : Byte := 0x68
def scSrGcAck : Byte := 0x70
def scSrArbGcAck : Byte := 0x78
def scSrDataAck : Byte := 0x80
def scSrDataNack : Byte := 0x88
def scSrGcDataAck : Byte := 0x90
def scSrGcDataNack : Byte := 0x98
def scStSlaAck : Byte := 0xA8
def scStArbSlaAck : Byte := 0xB0
def scStDataAck : Byte := 0xB8
def scStDataNack : Byte := 0xC0
def scStLastAck : Byte := 0xC8

/-- "stop or repeated start received while addressed as responder" (G9): not in the source's table (R93),
raised by the nominal engine only (R205). -/
def scSrEnded : Byte := 0xA0

/-- The status code of a register value, `s & 0xF8` (R34, R165). -/
def statusCode (raw : Byte) : Byte := raw &&& 0xF8#8

/-! ## The decoders -/

/-- `DECODE_START` (R166). -/
def decodeStart (c : Byte) : Ts := if c = scStart then .startSent else .startError

/-- `DECODE_RSTART` (R167). -/
def decodeRstart (c : Byte) : Ts := if c = scRstart then .repStartSent else .repStartError

/-- `DECODE_SLAW` (R168). -/
def decodeSlaw (c : Byte) : Ts :=
  if c = scMtSlaAck then .ackReceived
  else if c = scMtSlaNack then .nackReceived
  else if c = scArbLost then .arbitrationLost
  else .addressError

/-- `DECODE_SLAR` (R169). -/
def decodeSlar (c : Byte) : Ts :=
  if c = scMrSlaAck then .ackReceived
  else if c = scMrSlaNack then .nackReceived
  else if c = scArbLost then .arbitrationLost
  else .addressError

/-- The status of `MSEND_ERR` (R12, R170). -/
def msendErrStatus : MsendErr → Ts
  | .dataError => .dataError
  | .addressError => .addressError

/-- `DECODE_MTX` (R170). -/
def decodeMtx (e : MsendErr) (c : Byte) : Ts :=
  if c = scMtDataAck then .ackReceived
  else if c = scMtDataNack then .nackReceived
  else if c = scArbLost then .arbitrationLost
  else msendErrStatus e

/-- `DECODE_MRX` (R171). -/
def decodeMrx (c : Byte) : Ts :=
  if c = scMrDataAck then .ackSent
  else if c = scMrDataNack then .nackSent
  else if c = scArbLost then .arbitrationLost
  else .dataError

/-- `DECODE_SWAIT` (R172). -/
def decodeSwait (c : Byte) : Ts :=
  if c = scSrSlaAck ∨ c = scSrArbSlaAck ∨ c = scSrGcAck ∨ c = scSrArbGcAck then .ackSent
  else .addressError

/-- `DECODE_SRX` (R173). -/
def decodeSrx (c : Byte) : Ts :=
  if c = scSrDataAck ∨ c = scSrGcDataAck then .ackSent
  else if c = scSrDataNack ∨ c = scSrGcDataNack then .nackSent
  else .dataError

/-- `DECODE_STX` (R174). -/
def decodeStx (c : Byte) : Ts :=
  if c = scStDataAck ∨ c = scStLastAck then .ackReceived
  else if c = scStDataNack then .nackReceived
  else .dataError

/-- A receive operation's decoder reports success (R171, R173): the byte is then copied out. -/
def receiveSuccess (t : Ts) : Bool :=
  match t with
  | .ackSent | .nackSent => true
  | .startSent | .startError | .repStartSent | .repStartError | .ackReceived | .nackReceived
  | .arbitrationLost | .addressError | .dataError => false

/-! ## The response word -/

/-- The number of a Transaction Status (R86). -/
def tsNumber : Ts → BitVec 4
  | .startSent => 0
  | .startError => 1
  | .repStartSent => 2
  | .repStartError => 3
  | .ackReceived => 4
  | .nackReceived => 5
  | .arbitrationLost => 6
  | .addressError => 7
  | .dataError => 8
  | .ackSent => 9
  | .nackSent => 10

/-- The response word (R83): `RC` 15, `STV` 14, `DAV` 13, 0 at 12, `TS` 11:8, `DATA8` 7:0. -/
def responseWord : Resp → Word16
  | .invalidCall => 0x8000
  | .ok ts d =>
    0#1 ++ BitVec.ofBool ts.isSome ++ BitVec.ofBool d.isSome ++ 0#1 ++
      (match ts with | some t => tsNumber t | none => 0#4) ++ d.getD 0

end Sys2Proof.Machine
end

