-- ==== Sys2Proof/Machine/Micro.lean ====
section
/-! DEFINITION. The micro-steps of the sequencer, what each does, and the running of an operation's step
list (R9, R16, R40, R159 to R165). One micro-step is one register primitive, one poll or one response
(D27), and is atomic. -/

namespace Sys2Proof.Machine

/-- The nine operations with a status decoder (R165). -/
inductive StatusOp where
  | start | rstart | slaw | slar | mtx | mrx | swait | srx | stx
  deriving DecidableEq, Repr

/-- A step of an operation's step list. -/
inductive Micro where
  /-- `CHECK` (R160). -/
  | check
  /-- `MemWrite(r, 1, v)`. -/
  | memWrite (r : Reg) (v : Byte)
  /-- `SetBit(r, i)`. -/
  | setBit (r : Reg) (i : BitIx)
  /-- `ClrBit(r, i)`. -/
  | clrBit (r : Reg) (i : BitIx)
  /-- `WrBit(r, i, b)`. -/
  | wrBit (r : Reg) (i : BitIx) (b : Bool)
  /-- `WAIT` (R163). -/
  | wait
  /-- `s <- MemRead(STAT, 1)` (R164). -/
  | readStat
  /-- `respond(ok)`. -/
  | respondOk
  /-- `respond(ok, DECODE_<op>(s & 0xF8))`. -/
  | respondStatus (d : StatusOp)
  /-- The last step of a receive operation: on a success code `d <- MemRead(DATA, 1)` and
  `respond(ok, t, d)`, else `respond(ok, t)` (R145, R151, R164). -/
  | receive (d : StatusOp)
  /-- `cb <- h` (R184). -/
  | storeCb (h : Byte)
  deriving DecidableEq, Repr

/-- The Transaction Status of a raw status byte for an operation (R165). -/
def decodeStatus (d : StatusOp) (c : Config) (raw : Byte) : Ts :=
  match d with
  | .start => decodeStart (statusCode raw)
  | .rstart => decodeRstart (statusCode raw)
  | .slaw => decodeSlaw (statusCode raw)
  | .slar => decodeSlar (statusCode raw)
  | .mtx => decodeMtx c.msendErr (statusCode raw)
  | .mrx => decodeMrx (statusCode raw)
  | .swait => decodeSwait (statusCode raw)
  | .srx => decodeSrx (statusCode raw)
  | .stx => decodeStx (statusCode raw)

/-- `pc <- (op, k)` with the values read so far (R16, R40). -/
def goto (i : Instr) (k : Nat) (t : Tmp) (s : State) : State := setActive (.run i k t) s

/-- One poll of the flag (R163): passes to the next step, or stutters at this one. -/
def pollFlag (i : Instr) (k : Nat) (t : Tmp) (s : State) : State :=
  if getBit .ctrl 7 s then goto i (k + 1) { t with b := true } s
  else goto i k { t with b := false } s

/-- The last step of a receive operation (R145, R151). -/
def receiveStep (d : StatusOp) (t : Tmp) (s : State) : State :=
  let ts := decodeStatus d s.cfg t.s
  if receiveSuccess ts then
    let t' := { t with d := readReg .data s }
    respond (.ok (some ts) (some t'.d)) s
  else respond (.ok (some ts) none) s

/-- Step `k` of the operation `i`, which is the micro-step `m`. -/
def microStep (i : Instr) (k : Nat) (t : Tmp) (m : Micro) (s : State) : State :=
  match m with
  | .check => if contractOk i then goto i (k + 1) t s else raiseInvalidCall s
  | .memWrite r v => goto i (k + 1) t (memWrite r v s)
  | .setBit r n => goto i (k + 1) t (setBit r n s)
  | .clrBit r n => goto i (k + 1) t (clrBit r n s)
  | .wrBit r n b => goto i (k + 1) t (wrBit r n b s)
  | .wait => pollFlag i k t s
  | .readStat => goto i (k + 1) { t with s := readReg .stat s } s
  | .respondOk => respond (.ok none none) s
  | .respondStatus d => respond (.ok (some (decodeStatus d s.cfg t.s)) none) s
  | .receive d => receiveStep d t s
  | .storeCb h => goto i (k + 1) t { s with cb := h }

/-- One micro-step of the operation `i` with step list `ms` in the active context: step 0 where the
sequencer is idle and the host issues `i` (R40), else the next step of the record. -/
def runSteps (i : Instr) (ms : List Micro) (s : State) : Host.Outcome State Fault Refusal :=
  match activeSeq s with
  | .idle =>
    match ms[0]? with
    | some m => .next (microStep i 0 Tmp.zero m s)
    | none => .refused .noSuchStep
  | .run j k t =>
    if j = i then
      match ms[k]? with
      | some m => .next (microStep i k t m s)
      | none => .refused .noSuchStep
    else .refused .contextBusy

/-- A register primitive issued on the register port (R120): one atomic step from the state `s` to `s'`, with
its response; the context must be idle (R40, R250). -/
def runPrimitive (s s' : State) (r : Resp) : Host.Outcome State Fault Refusal :=
  match activeSeq s with
  | .idle => .next (respond r s')
  | .run _ _ _ => .refused .contextBusy

/-- `BEGIN_COND` (R161) with its `WAIT`. -/
def beginCond : List Micro := [.clrBit .ctrl 4, .setBit .ctrl 5, .setBit .ctrl 7, .wait]

/-- `XFER_BYTE` (R162) with its `WAIT`. -/
def xferByte : List Micro := [.clrBit .ctrl 5, .clrBit .ctrl 4, .setBit .ctrl 7, .wait]

end Sys2Proof.Machine
end

