-- ==== Sys2Proof/Machine/Engine.lean ====
section
/-! DEFINITION. The bus engine: the unconstrained engine (R190 to R194) and the nominal engine (R199 to
R208), which is general knowledge (G5, log entry 8). -/

namespace Sys2Proof.Machine

/-- The engine guard (R191). -/
def engineGuard (s : State) : Bool := s.ctrl.en && !s.ctrl.int

/-- The phase after an event the nominal engine admits: a named one, or a draw (R208). -/
inductive NextPhase where
  | known (p : Phase)
  | draw
  deriving DecidableEq, Repr

/-- Nominal, addressed while listening (R204), `EA = 1`. -/
def listening (s : State) (c : Byte) : Option NextPhase :=
  if c = scSrSlaAck then some (.known .sr)
  else if c = scSrGcAck then (if s.oaddr.getLsbD 0 then some (.known .srGc) else none)
  else if c = scStSlaAck then some (.known .st)
  else none

/-- Nominal, arbitration lost in the address phase to a controller that addresses this block (R201), `EA = 1`. -/
def lostAndAddressed (s : State) (c : Byte) : Option NextPhase :=
  if c = scSrArbSlaAck then some (.known .sr)
  else if c = scSrArbGcAck then (if s.oaddr.getLsbD 0 then some (.known .srGc) else none)
  else if c = scStArbSlaAck then some (.known .st)
  else none

/-- Nominal, address phase (R201). -/
def addressPhase (s : State) (c : Byte) (rx : Option Byte) : Option NextPhase :=
  let acked : Phase := if s.data.getLsbD 0 then .mr else .mt
  let ack : Byte := if s.data.getLsbD 0 then scMrSlaAck else scMtSlaAck
  let nack : Byte := if s.data.getLsbD 0 then scMrSlaNack else scMtSlaNack
  if (c = ack ∨ c = nack) ∧ rx = none then some (.known acked)
  else if c = scArbLost ∧ rx = none then some (.known .idle)
  else if s.ctrl.ea then lostAndAddressed s c
  else none

/-- Nominal, controller transmit (R202). -/
def transmitPhase (c : Byte) (rx : Option Byte) : Option NextPhase :=
  if (c = scMtDataAck ∨ c = scMtDataNack) ∧ rx = none then some (.known .mt)
  else if c = scArbLost ∧ rx = none then some (.known .idle)
  else none

/-- Nominal, controller receive (R203). -/
def receivePhase (s : State) (c : Byte) (rx : Option Byte) : Option NextPhase :=
  if s.ctrl.ea then (if c = scMrDataAck ∧ rx.isSome then some (.known .mr) else none)
  else if c = scMrDataNack ∧ rx.isSome then some (.known .mr)
  else if c = scArbLost ∧ rx = none then some (.known .idle)
  else none

/-- Nominal, responder receive (R205), with the phase and the two codes of its path. -/
def responderReceive (s : State) (p : Phase) (ack nack : Byte) (c : Byte) (rx : Option Byte) :
    Option NextPhase :=
  if c = scSrEnded ∧ rx = none then some (.known .idle)
  else if s.ctrl.ea then (if c = ack ∧ rx.isSome then some (.known p) else none)
  else if c = nack ∧ rx.isSome then some (.known .idle)
  else none

/-- Nominal, responder transmit (R206). -/
def responderTransmit (s : State) (c : Byte) (rx : Option Byte) : Option NextPhase :=
  if c = scStDataNack ∧ rx = none then some (.known .idle)
  else if s.ctrl.ea then (if c = scStDataAck ∧ rx = none then some (.known .st) else none)
  else if c = scStLastAck ∧ rx = none then some (.known .idle)
  else none

/-- What the nominal engine makes of `E-COMPLETE(c, rx)` in a state that meets the guard: not admitted
(`none`), or admitted with the next phase (R200 to R208). -/
def nominalNext (s : State) (c : Byte) (rx : Option Byte) : Option NextPhase :=
  if s.ctrl.sto then
    -- R207 with STA = 0, R208 with STA = 1
    (if s.ctrl.sta then some .draw else none)
  else
    match s.phase, s.ctrl.sta with
    | .idle, true =>
      if c = scStart ∧ rx = none then some (.known .mStart)
      else if s.ctrl.ea then listening s c else none
    | .idle, false => if s.ctrl.ea then listening s c else none
    | .mStart, true | .mt, true | .mr, true =>
      if c = scRstart ∧ rx = none then some (.known .mStart) else none
    | .mStart, false => addressPhase s c rx
    | .mt, false => transmitPhase c rx
    | .mr, false => receivePhase s c rx
    | .sr, false => responderReceive s .sr scSrDataAck scSrDataNack c rx
    | .srGc, false => responderReceive s .srGc scSrGcDataAck scSrGcDataNack c rx
    | .st, false => responderTransmit s c rx
    | .sr, true | .srGc, true | .st, true => some .draw

/-- `E-COMPLETE(c, rx)` is admitted (R191, R192, R199). -/
def completeAdmitted (s : State) (c : Code5) (rx : Option Byte) : Bool :=
  engineGuard s &&
    match s.cfg.engine with
    | .unconstrained => true
    | .nominal => (nominalNext s (codeByte c) rx).isSome

/-- The phase after an admitted completion, with the draw it takes (R192, R208). -/
def completePhase (s : State) (c : Code5) (rx : Option Byte) : Phase × Nat :=
  match s.cfg.engine with
  | .unconstrained => (s.phase, s.draws)
  | .nominal =>
    match nominalNext s (codeByte c) rx with
    | none => (s.phase, s.draws)
    | some (.known p) => (p, s.draws)
    | some .draw => (Config.freePhase s.draws, s.draws + 1)

/-- The effect of `E-COMPLETE(c, rx)` (R192): status code, received byte if any, flag and latch, in one event. -/
def engineComplete (c : Code5) (rx : Option Byte) (s : State) : State :=
  let p := completePhase s c rx
  raiseFlag { s with
    stat := { s.stat with sc5 := c }
    data := rx.getD s.data
    phase := p.1
    draws := p.2 }

/-- `E-STOP` is admitted (R193, R207). -/
def stopAdmitted (s : State) : Bool := engineGuard s && s.ctrl.sto

/-- The effect of `E-STOP` (R193): no flag, no status, no interrupt. -/
def engineStop (s : State) : State :=
  { s with
    ctrl := { s.ctrl with sto := false }
    phase := match s.cfg.engine with
      | .unconstrained => s.phase
      | .nominal => .idle }

end Sys2Proof.Machine
end

