-- ==== Sys2Proof/Machine/Controller.lean ====
section
/-! DEFINITION. The controller-role operations (R140 to R147). -/

namespace Sys2Proof.Machine

/-- The step list of `START` (R140). -/
def startSteps : List Micro := [.check] ++ beginCond ++ [.readStat, .respondStatus .start]

/-- `START` (R140). -/
def execStart (sv dv : Bool) (arg : Byte) (s : State) : Host.Outcome State Fault Refusal :=
  runSteps (.start sv dv arg) startSteps s

/-- The step list of `RSTART` (R141): that of `START` but for the decoder (R147). -/
def rstartSteps : List Micro := [.check] ++ beginCond ++ [.readStat, .respondStatus .rstart]

/-- `RSTART` (R141). -/
def execRstart (sv dv : Bool) (arg : Byte) (s : State) : Host.Outcome State Fault Refusal :=
  runSteps (.rstart sv dv arg) rstartSteps s

/-- The step list of `SLAW` (R142). -/
def slawSteps (a : Byte) : List Micro :=
  [.check, .memWrite .data (addressByte a)] ++ xferByte ++ [.readStat, .respondStatus .slaw]

/-- `SLAW addr` (R142). -/
def execSlaw (sv dv : Bool) (arg : Byte) (s : State) : Host.Outcome State Fault Refusal :=
  runSteps (.slaw sv dv arg) (slawSteps arg) s

/-- The step list of `SLAR` (R143). -/
def slarSteps (a : Byte) : List Micro :=
  [.check, .memWrite .data (addressByte a), .setBit .data 0] ++ xferByte ++
    [.readStat, .respondStatus .slar]

/-- `SLAR addr` (R143). -/
def execSlar (sv dv : Bool) (arg : Byte) (s : State) : Host.Outcome State Fault Refusal :=
  runSteps (.slar sv dv arg) (slarSteps arg) s

/-- The step list of `MTX` (R144). -/
def mtxSteps (b : Byte) : List Micro :=
  [.check, .memWrite .data b] ++ xferByte ++ [.readStat, .respondStatus .mtx]

/-- `MTX byte` (R144). -/
def execMtx (sv dv : Bool) (arg : Byte) (s : State) : Host.Outcome State Fault Refusal :=
  runSteps (.mtx sv dv arg) (mtxSteps arg) s

/-- The step list of `MRX` (R145). -/
def mrxSteps (q : Byte) : List Micro :=
  [.check, .wrBit .ctrl 6 (directiveBit q)] ++ xferByte ++ [.readStat, .receive .mrx]

/-- `MRX directive` (R145). -/
def execMrx (sv dv : Bool) (arg : Byte) (s : State) : Host.Outcome State Fault Refusal :=
  runSteps (.mrx sv dv arg) (mrxSteps arg) s

/-- The step list of `STOP` (R146): no `WAIT`, no status. -/
def stopSteps : List Micro := [.check, .clrBit .ctrl 5, .setBit .ctrl 4, .setBit .ctrl 7, .respondOk]

/-- `STOP` (R146); `SV`, `DV` and `ARG` are ignored. -/
def execStop (sv dv : Bool) (arg : Byte) (s : State) : Host.Outcome State Fault Refusal :=
  runSteps (.stop sv dv arg) stopSteps s

end Sys2Proof.Machine
end

