-- ==== Sys2Proof/Machine/Init.lean ====
section
/-! DEFINITION. Initialization (R130, R131). -/

namespace Sys2Proof.Machine

/-- The step list of `INIT` (R130). -/
def initSteps (c : Config) : List Micro :=
  [.check,
   .memWrite .brg c.rate,
   .wrBit .stat 0 ((prescalerPattern c.prescaler).getLsbD 0),
   .wrBit .stat 1 ((prescalerPattern c.prescaler).getLsbD 1),
   .memWrite .oaddr (ownAddressByte c),
   .setBit .ctrl 2,
   .respondOk]

/-- `INIT`; `SV`, `DV` and `ARG` are ignored. -/
def execInit (sv dv : Bool) (arg : Byte) (s : State) : Host.Outcome State Fault Refusal :=
  runSteps (.init sv dv arg) (initSteps s.cfg) s

end Sys2Proof.Machine
end

