-- ==== Sys2Proof/Machine/Interrupt.lean ====
section
/-! DEFINITION. Interrupt flag management and callback registration (R180 to R184). None waits, none has a
status output; `SV` and `DV` are ignored. -/

namespace Sys2Proof.Machine

/-- The step list of `CLRF` (R181). -/
def clrfSteps : List Micro := [.check, .setBit .ctrl 7, .respondOk]

/-- `CLRF` (R181). -/
def execClrf (sv dv : Bool) (arg : Byte) (s : State) : Host.Outcome State Fault Refusal :=
  runSteps (.clrf sv dv arg) clrfSteps s

/-- The step list of `IEN` (R182). -/
def ienSteps : List Micro := [.check, .setBit .ctrl 0, .respondOk]

/-- `IEN` (R182). -/
def execIen (sv dv : Bool) (arg : Byte) (s : State) : Host.Outcome State Fault Refusal :=
  runSteps (.ien sv dv arg) ienSteps s

/-- The step list of `IDIS` (R183). -/
def idisSteps : List Micro := [.check, .clrBit .ctrl 0, .respondOk]

/-- `IDIS` (R183). -/
def execIdis (sv dv : Bool) (arg : Byte) (s : State) : Host.Outcome State Fault Refusal :=
  runSteps (.idis sv dv arg) idisSteps s

/-- The step list of `SETCB` (R184). -/
def setcbSteps (h : Byte) : List Micro := [.check, .storeCb h, .respondOk]

/-- `SETCB h` (R184). -/
def execSetcb (sv dv : Bool) (arg : Byte) (s : State) : Host.Outcome State Fault Refusal :=
  runSteps (.setcb sv dv arg) (setcbSteps arg) s

end Sys2Proof.Machine
end

