-- ==== Sys2Proof/Machine/Primitives.lean ====
section
/-! DEFINITION. The register-access primitives on the register port (R120 to R126). Each is one atomic step
with its response; the reserved encodings are rejected by the decoder (R90). -/

namespace Sys2Proof.Machine

/-- `RD reg` (R121): answers the byte composed from the fields; changes no register. -/
def execRd (reg : Reg) (_arg : Byte) (s : State) : Host.Outcome State Fault Refusal :=
  runPrimitive s s (.ok none (some (readReg reg s)))

/-- `WR reg, byte` (R122). -/
def execWr (reg : Reg) (v : Byte) (s : State) : Host.Outcome State Fault Refusal :=
  runPrimitive s (memWrite reg v s) (.ok none none)

/-- `SETB reg, bit` (R123). -/
def execSetb (reg : Reg) (i : BitIx) (s : State) : Host.Outcome State Fault Refusal :=
  runPrimitive s (setBit reg i s) (.ok none none)

/-- `CLRB reg, bit` (R124). -/
def execClrb (reg : Reg) (i : BitIx) (s : State) : Host.Outcome State Fault Refusal :=
  runPrimitive s (clrBit reg i s) (.ok none none)

/-- `WRB reg, bit, value` (R125). -/
def execWrb (reg : Reg) (i : BitIx) (b : Bool) (s : State) : Host.Outcome State Fault Refusal :=
  runPrimitive s (wrBit reg i b s) (.ok none none)

/-- `GETB reg, bit` (R126): answers `0000000 ++ b`; changes no register. -/
def execGetb (reg : Reg) (i : BitIx) (s : State) : Host.Outcome State Fault Refusal :=
  runPrimitive s s (.ok none (some (0#7 ++ BitVec.ofBool (getBit reg i s))))

end Sys2Proof.Machine
end

