-- ==== Sys2Proof/Machine/Responder.lean ====
section
/-! DEFINITION. The responder-role operations (R150 to R153). -/

namespace Sys2Proof.Machine

/-- The step list of `SWAIT` (R150): alone among the blocking operations it does not clear the flag, so a
flag set on entry passes its `WAIT` at the first poll (R153). -/
def swaitSteps : List Micro :=
  [.check, .clrBit .ctrl 5, .clrBit .ctrl 4, .setBit .ctrl 6, .wait, .readStat, .respondStatus .swait]

/-- `SWAIT` (R150). -/
def execSwait (sv dv : Bool) (arg : Byte) (s : State) : Host.Outcome State Fault Refusal :=
  runSteps (.swait sv dv arg) swaitSteps s

/-- The step list of `SRX` (R151). -/
def srxSteps (q : Byte) : List Micro :=
  [.check, .wrBit .ctrl 6 (directiveBit q)] ++ xferByte ++ [.readStat, .receive .srx]

/-- `SRX directive` (R151). -/
def execSrx (sv dv : Bool) (arg : Byte) (s : State) : Host.Outcome State Fault Refusal :=
  runSteps (.srx sv dv arg) (srxSteps arg) s

/-- The step list of `STX` (R152): the register steps of `MTX`. -/
def stxSteps (b : Byte) : List Micro :=
  [.check, .memWrite .data b] ++ xferByte ++ [.readStat, .respondStatus .stx]

/-- `STX byte` (R152). -/
def execStx (sv dv : Bool) (arg : Byte) (s : State) : Host.Outcome State Fault Refusal :=
  runSteps (.stx sv dv arg) (stxSteps arg) s

end Sys2Proof.Machine
end

