-- ==== Sys2Proof/Machine/Dispatch.lean ====
section
/-! DEFINITION. The dispatch of an instruction to its meaning, one arm per constructor. `exec i s` is ONE step
of the active context for the instruction `i`: a whole register primitive (R120), or the next micro-step of
an operation (R9, R16, R40). -/

namespace Sys2Proof.Machine

def exec (i : Instr) (s : State) : Host.Outcome State Fault Refusal :=
  match i with
  | .init sv dv arg => Sys2Proof.Machine.execInit sv dv arg s
  | .start sv dv arg => Sys2Proof.Machine.execStart sv dv arg s
  | .rstart sv dv arg => Sys2Proof.Machine.execRstart sv dv arg s
  | .slaw sv dv arg => Sys2Proof.Machine.execSlaw sv dv arg s
  | .slar sv dv arg => Sys2Proof.Machine.execSlar sv dv arg s
  | .mtx sv dv arg => Sys2Proof.Machine.execMtx sv dv arg s
  | .mrx sv dv arg => Sys2Proof.Machine.execMrx sv dv arg s
  | .stop sv dv arg => Sys2Proof.Machine.execStop sv dv arg s
  | .swait sv dv arg => Sys2Proof.Machine.execSwait sv dv arg s
  | .srx sv dv arg => Sys2Proof.Machine.execSrx sv dv arg s
  | .stx sv dv arg => Sys2Proof.Machine.execStx sv dv arg s
  | .clrf sv dv arg => Sys2Proof.Machine.execClrf sv dv arg s
  | .ien sv dv arg => Sys2Proof.Machine.execIen sv dv arg s
  | .idis sv dv arg => Sys2Proof.Machine.execIdis sv dv arg s
  | .setcb sv dv arg => Sys2Proof.Machine.execSetcb sv dv arg s
  | .rd reg arg => Sys2Proof.Machine.execRd reg arg s
  | .wr reg v => Sys2Proof.Machine.execWr reg v s
  | .setb reg n => Sys2Proof.Machine.execSetb reg n s
  | .clrb reg n => Sys2Proof.Machine.execClrb reg n s
  | .wrb reg n b => Sys2Proof.Machine.execWrb reg n b s
  | .getb reg n => Sys2Proof.Machine.execGetb reg n s

end Sys2Proof.Machine
end

