-- ==== Sys2Proof/Machine/Steps.lean ====
section
/-! DEFINITION. The step lists of all operations in one place (R40: the step pointer ranges over them), for
statements and oracles that speak of every operation. -/

namespace Sys2Proof.Machine

/-- The step list of an operation; a register primitive has none, being one atomic step (R120). -/
def stepsOf (c : Config) : Instr → List Micro
  | .init _ _ _ => initSteps c
  | .start _ _ _ => startSteps
  | .rstart _ _ _ => rstartSteps
  | .slaw _ _ a => slawSteps a
  | .slar _ _ a => slarSteps a
  | .mtx _ _ a => mtxSteps a
  | .mrx _ _ a => mrxSteps a
  | .stop _ _ _ => stopSteps
  | .swait _ _ _ => swaitSteps
  | .srx _ _ a => srxSteps a
  | .stx _ _ a => stxSteps a
  | .clrf _ _ _ => clrfSteps
  | .ien _ _ _ => ienSteps
  | .idis _ _ _ => idisSteps
  | .setcb _ _ a => setcbSteps a
  | .rd _ _ | .wr _ _ | .setb _ _ | .clrb _ _ | .wrb _ _ _ | .getb _ _ => []

/-- The index of an operation's `WAIT` in its step list, if it has one (R251). -/
def waitIndex (c : Config) (i : Instr) : Option Nat := (stepsOf c i).findIdx? (· = .wait)

end Sys2Proof.Machine
end

