-- ==== Sys2Proof/Machine/Agents.lean ====
section
/-! DEFINITION. Whose turn it is and what that agent does (R9, R69, R219): the next choice, the turn of the
active context (issue, micro-step, return), and one step of the chosen agent. -/

namespace Sys2Proof.Machine

/-- The choice for this step: the head of the schedule, or a free value (R194, R219; log entry 2). -/
def nextChoice (s : State) : Choice :=
  match s.sched with
  | [] => Config.freeChoice s.tick
  | c :: _ => c

/-- The state with this step's choice taken from it. -/
def takeChoice (s : State) : State := { s with sched := s.sched.tail, tick := s.tick + 1 }

/-- The chosen agent may step (R191, R192, R193, R220). The active context and the reset always may. -/
def admitted (c : Choice) (s : State) : Bool :=
  match c with
  | .seq | .reset => true
  | .complete code rx => completeAdmitted s code rx
  | .stop => stopAdmitted s
  | .deliver => deliveryEnabled s

/-- The choice, or the active context's turn where the chosen agent may not step: at every instant exactly
one agent steps (R9; log entry 2). -/
def turnOf (s : State) : Choice :=
  if admitted (nextChoice s) s then nextChoice s else .seq

/-- The word the active context's host issues next. -/
def nextWord (s : State) : Option PortWord := (activeFlow s).prog.head?

/-- The state once its host has handed that word over. -/
def takeWord (s : State) : State :=
  setFlow { activeFlow s with prog := (activeFlow s).prog.tail } s

/-- A word handed to the block by the idle active context: its instruction's first step, or `invalid-call`
for a reserved word (R40, R90, R210). -/
def issue (p : PortWord) (s : State) : Host.Outcome State Fault Refusal :=
  match decode p.port p.word with
  | .instr i => exec i s
  | .reserved _ => .next (raiseInvalidCall s)

/-- The turn of the active context: the operation in progress takes its next micro-step; an idle context
issues its next word; a handler with no word left returns (R225); a main flow with no word left idles
(R246). -/
def contextStep (s : State) : Host.Outcome State Fault Refusal :=
  match activeSeq s with
  | .run i _ _ => exec i s
  | .idle =>
    match nextWord s with
    | some p => issue p (takeWord s)
    | none => .next (if s.inHandler then handlerReturn s else s)

/-- One step of the agent `c`. -/
def agentStep (c : Choice) (s : State) : Host.Outcome State Fault Refusal :=
  match c with
  | .seq => contextStep s
  | .complete code rx => .next (engineComplete code rx s)
  | .stop => .next (engineStop s)
  | .deliver => deliver s
  | .reset => .next (resetEvent s)

/-- One step of the machine (R9, R11, R17): refused for an ill-formed configuration, else one step of the
agent whose turn it is. -/
def machineStep (s : State) : Host.Outcome State Fault Refusal :=
  if s.cfg.wf then agentStep (turnOf s) (takeChoice s) else .refused .illFormedConfiguration

/-- The active context made idle with the word `p` as the next it issues, and the next turn given to it. -/
def placeWord (p : PortWord) (s : State) : State :=
  let s' := setActive .idle (setFlow { activeFlow s with prog := p :: (activeFlow s).prog } s)
  { s' with sched := .seq :: s'.sched }

end Sys2Proof.Machine
end

