-- ==== Sys2Proof/Machine/Step.lean ====
section
/-! DEFINITION. One step of the machine, and the placing of an instruction where the next step issues it. -/

namespace Sys2Proof.Machine

/-- One step of the machine. -/
def step (s : State) : Host.Outcome State Fault Refusal := machineStep s

/-- `s` with an opcode-table word as the next word the active context hands to the COMMAND port, the port
`decodeTableWord` reads, and the next step that context's turn. This stands for the host's loading of a
program (log entries 15 and 26). -/
def State.withFetchWord (s : State) (nbits w : Nat) : State :=
  placeWord ⟨.command, BitVec.ofNat 16 (w % 2 ^ nbits)⟩ s

end Sys2Proof.Machine
end

