-- ==== Sys2Proof/Machine/Mock.lean ====
section
/-! DEFINITION. The mock register bank of the source's tests (R76): every register a plain 8-bit cell in
which every write simply lands, no engine, no hidden state. It is a second configuration of the register
space for testing the decoder; claims about the hardware go through `readReg`, `memWrite` and `storeBit`. -/

namespace Sys2Proof.Machine

/-- Five plain 8-bit cells. -/
structure MockBank where
  ctrl : Byte
  data : Byte
  oaddr : Byte
  stat : Byte
  brg : Byte
  deriving DecidableEq, Repr

/-- The cell of a register. -/
def mockRead (r : Reg) (m : MockBank) : Byte :=
  match r with
  | .ctrl => m.ctrl
  | .data => m.data
  | .oaddr => m.oaddr
  | .stat => m.stat
  | .brg => m.brg

/-- A write lands. -/
def mockWrite (r : Reg) (v : Byte) (m : MockBank) : MockBank :=
  match r with
  | .ctrl => { m with ctrl := v }
  | .data => { m with data := v }
  | .oaddr => { m with oaddr := v }
  | .stat => { m with stat := v }
  | .brg => { m with brg := v }

/-- One bit of a cell is written. -/
def mockWriteBit (r : Reg) (i : BitIx) (b : Bool) (m : MockBank) : MockBank :=
  mockWrite r (withBit (mockRead r m) i.toNat b) m

/-- Where a mock operation stands: still running, waiting at `WAIT` for a flag the test sets, or done. -/
inductive MockRun where
  | running (t : Tmp) (m : MockBank)
  | waiting (m : MockBank)
  | done (r : Resp) (m : MockBank)
  deriving DecidableEq, Repr

/-- One micro-step over the mock bank. -/
def mockStep (c : Config) (i : Instr) (t : Tmp) (m : MockBank) (u : Micro) : MockRun :=
  match u with
  | .check => if contractOk i then .running t m else .done .invalidCall m
  | .memWrite r v => .running t (mockWrite r v m)
  | .setBit r n => .running t (mockWriteBit r n true m)
  | .clrBit r n => .running t (mockWriteBit r n false m)
  | .wrBit r n b => .running t (mockWriteBit r n b m)
  | .wait => if m.ctrl.getLsbD 7 then .running { t with b := true } m else .waiting m
  | .readStat => .running { t with s := m.stat } m
  | .respondOk => .done (.ok none none) m
  | .respondStatus d => .done (.ok (some (decodeStatus d c t.s)) none) m
  | .receive d =>
    if receiveSuccess (decodeStatus d c t.s) then .done (.ok (some (decodeStatus d c t.s)) (some m.data)) m
    else .done (.ok (some (decodeStatus d c t.s)) none) m
  | .storeCb _ => .running t m

/-- A list of micro-steps over the mock bank. -/
def mockSteps (c : Config) (i : Instr) : List Micro → Tmp → MockBank → MockRun
  | [], t, m => .running t m
  | u :: us, t, m =>
    match mockStep c i t m u with
    | .running t' m' => mockSteps c i us t' m'
    | .waiting m' => .waiting m'
    | .done r m' => .done r m'

/-- A whole operation over the mock bank. Its clear-flag step writes a 1 that lands, so its `WAIT` passes;
`SWAIT` reads the flag the test set. -/
def mockOperation (c : Config) (i : Instr) (m : MockBank) : MockRun :=
  mockSteps c i (stepsOf c i) Tmp.zero m

end Sys2Proof.Machine
end

