-- ==== Sys2Proof/Safety.lean ====
section
/-! DEFINITION. What claims speak of: the invariant of the block's reachable states, the end of a run, a
waiting operation, and the outcomes that count as a stop. -/

namespace Sys2Proof.Machine

/-- A sequencer record that R40 allows: idle, or an operation that passed its check, at a step index between
1 and the end of its finite step list. -/
def seqOk (c : Config) : Seq → Bool
  | .idle => true
  | .run i k _ => contractOk i && decide (1 ≤ k) && decide (k < (stepsOf c i).length)

/-- The invariant: a pending interrupt means the flag is set (R38, R191, R192); outside the handler its
sequencer is idle and its program empty, and inside it a callback is registered (R37, R39, R40); both
records are allowed (R40); the phase is `IDLE` while the peripheral is disabled (R28, R41) and always under
the unconstrained engine (R41). -/
def State.Inv (s : State) : Bool :=
  (!s.irqPend || s.ctrl.int) &&
  (s.inHandler || (decide (s.seqHnd = .idle) && decide (s.hostHnd.prog = []))) &&
  (!s.inHandler || decide (s.cb ≠ 0#8)) &&
  seqOk s.cfg s.seqMain && seqOk s.cfg s.seqHnd &&
  (s.ctrl.en || decide (s.phase = .idle)) &&
  (decide (s.cfg.engine = .nominal) || decide (s.phase = .idle))

/-- A run has ended (R246): the last instruction has responded, no handler runs, no delivery is enabled. The
model's choice (log entry 31): the instruction counts as done when the main flow has nothing to issue and
its sequencer is idle, so also when a reset event cut it off before it responded, which R246 does not say. -/
def State.ended (s : State) : Bool :=
  decide (s.hostMain.prog = []) && decide (s.seqMain = .idle) && !s.inHandler && !deliveryEnabled s

/-- The active context polls a flag that is clear (R163). -/
def State.waiting (s : State) : Bool :=
  match activeSeq s with
  | .idle => false
  | .run i k _ => decide ((stepsOf s.cfg i)[k]? = some .wait) && !s.ctrl.int

/-- An outcome that is a next state: neither a fault nor a refusal (R17). -/
def isNext : Host.Outcome State Fault Refusal → Bool
  | .next _ => true
  | .fault _ => false
  | .refused _ => false

end Sys2Proof.Machine
end

