-- ==== Sys2Proof/Certificates/Slice0/Obligations.lean ====
section
/-! DEFINITION. The statements for the provers, each a rule of spec/ or resting on the rules its docstring
names. `Sys2Proof.Claims` holds the words they are written in: register contents and conditions spelled
out from the spec's tables, not through the model's own functions. -/

namespace Sys2Proof.Claims

open Sys2Proof.Machine

/-- The active context is at step `k` of the operation `i`, with the values `t` read so far (R40). -/
def atStep (i : Instr) (k : Nat) (t : Tmp) (s : State) : Prop := activeSeq s = .run i k t

/-- The only change is that the active flow has received `invalid-call`, with neither sink written (R210). -/
def invalidCallOnly (s : State) : State :=
  if s.inHandler then { s with hostHnd := { s.hostHnd with resp := some .invalidCall } }
  else { s with hostMain := { s.hostMain with resp := some .invalidCall } }

/-- The word is reserved on its port (R90). -/
def reservedWord (p : Port) (w : Word16) : Prop :=
  match p with
  | .command => w.extractLsb' 12 4 = 0xF#4 ∨ w.extractLsb' 8 2 ≠ 0#2
  | .register =>
    w.extractLsb' 13 3 = 6#3 ∨ w.extractLsb' 13 3 = 7#3 ∨ w.extractLsb' 8 2 ≠ 0#2 ∨
    5 ≤ (w.extractLsb' 10 3).toNat ∨
    ((w.extractLsb' 13 3 = 2#3 ∨ w.extractLsb' 13 3 = 3#3 ∨ w.extractLsb' 13 3 = 5#3) ∧
      w.extractLsb' 3 5 ≠ 0#5) ∨
    (w.extractLsb' 13 3 = 4#3 ∧ w.extractLsb' 4 4 ≠ 0#4)

/-- The contract violations of the table of R160. -/
def violates : Instr → Prop
  | .start sv _ _ | .rstart sv _ _ | .slaw sv _ _ | .slar sv _ _ | .mtx sv _ _ | .swait sv _ _
  | .stx sv _ _ => sv = false
  | .mrx sv dv q | .srx sv dv q => sv = false ∨ dv = false ∨ (q ≠ 0x00#8 ∧ q ≠ 0x01#8)
  | .setcb _ _ h => h = 0x00#8
  | .init _ _ _ | .stop _ _ _ | .clrf _ _ _ | .ien _ _ _ | .idis _ _ _ => False
  | .rd _ _ | .wr _ _ | .setb _ _ | .clrb _ _ | .wrb _ _ _ | .getb _ _ => False

/-- `s` with `CTRL.INT` and `irq_pend` cleared (R23, R38). -/
def flagCleared (s : State) : State := { s with ctrl := { s.ctrl with int := false }, irqPend := false }

/-- `s` after `DATA` is written with `v` (R120): the byte lands and `WC` is 0, or `WC` is 1 and `DATA` holds
the next free byte. -/
def dataWritten (v : Byte) (s : State) : State :=
  if s.ctrl.int = true then { s with data := v, ctrl := { s.ctrl with wc := false } }
  else { s with data := Config.freeByte s.draws, draws := s.draws + 1, ctrl := { s.ctrl with wc := true } }

/-- A byte with bit `i` replaced. -/
def byteWithBit (v : Byte) (i : BitIx) (b : Bool) : Byte :=
  (v &&& ~~~(1#8 <<< i.toNat)) ||| (if b then 1#8 <<< i.toNat else 0#8)

/-- `s` after bit `i` of the register `r` is written with `b`, by the table of R120: bit 7 of `CTRL` is
write-one-to-clear, its bits 3 and 1 and the bits of `STAT` above 1 ignore the write. -/
def bitStored (r : Reg) (i : BitIx) (b : Bool) (s : State) : State :=
  match r with
  | .ctrl =>
    { s with
      ctrl :=
        { int := s.ctrl.int && !(decide (i = 7#3) && b)
          ea := if i = 6#3 then b else s.ctrl.ea
          sta := if i = 5#3 then b else s.ctrl.sta
          sto := if i = 4#3 then b else s.ctrl.sto
          wc := s.ctrl.wc
          en := if i = 2#3 then b else s.ctrl.en
          ie := if i = 0#3 then b else s.ctrl.ie }
      irqPend := s.irqPend && !(decide (i = 7#3) && b)
      phase := if i = 2#3 ∧ b = false ∧ s.cfg.engine = .nominal then .idle else s.phase }
  | .data => dataWritten (byteWithBit s.data i b) s
  | .oaddr => { s with oaddr := byteWithBit s.oaddr i b }
  | .stat =>
    { s with
      stat :=
        { sc5 := s.stat.sc5
          ps := BitVec.ofBool (if i = 1#3 then b else s.stat.ps.getLsbD 1) ++
            BitVec.ofBool (if i = 0#3 then b else s.stat.ps.getLsbD 0) } }
  | .brg => { s with brg := byteWithBit s.brg i b }

/-- Steps `n` to `n + 4` of an operation are `XFER_BYTE` (R162), `WAIT` (R163) and the status read (R164). -/
def xferThenStatus (i : Instr) (n : Nat) : Prop :=
  ∀ (s : State) (t : Tmp),
    (atStep i n t s → exec i s = .next (goto i (n + 1) t { s with ctrl := { s.ctrl with sta := false } })) ∧
    (atStep i (n + 1) t s →
      exec i s = .next (goto i (n + 2) t { s with ctrl := { s.ctrl with sto := false } })) ∧
    (atStep i (n + 2) t s → exec i s = .next (goto i (n + 3) t (flagCleared s))) ∧
    (atStep i (n + 3) t s → s.ctrl.int = true → exec i s = .next (goto i (n + 4) { t with b := true } s)) ∧
    (atStep i (n + 3) t s → s.ctrl.int = false → exec i s = .next (goto i (n + 3) { t with b := false } s)) ∧
    (atStep i (n + 4) t s → exec i s = .next (goto i (n + 5) { t with s := s.stat.sc5 ++ 0#1 ++ s.stat.ps } s))

/-- `n` steps of the operation `i` with no step of another agent between them. -/
def execTimes : Nat → Instr → State → Host.Outcome State Fault Refusal
  | 0, _, s => .next s
  | n + 1, i, s =>
    match exec i s with
    | .next s' => execTimes n i s'
    | .fault f => .fault f
    | .refused r => .refused r

/-- `n` steps of the operation `i`, then the completion event, then `m` more steps. -/
def execAround (n m : Nat) (c : Code5) (rx : Option Byte) (i : Instr) (s : State) :
    Host.Outcome State Fault Refusal :=
  match execTimes n i s with
  | .next s' => execTimes m i (engineComplete c rx s')
  | .fault f => .fault f
  | .refused r => .refused r

/-- `k` steps of the machine. -/
def stepTimes (k : Nat) (s : State) : Host.Outcome State Fault Refusal := Sys2Proof.core.run k s

/-- The nominal engine may act: `EN = 1`, `INT = 0`, no stop request, in phase `p` with start request `sta`. -/
def nominalIn (p : Phase) (sta : Bool) (s : State) : Prop :=
  s.cfg.engine = .nominal ∧ s.ctrl.en = true ∧ s.ctrl.int = false ∧ s.ctrl.sto = false ∧ s.phase = p ∧
    s.ctrl.sta = sta

/-- The events that mean the block is addressed while it listens (R204), with their phase. -/
def addressed (s : State) (c : Byte) (p : Phase) : Prop :=
  (c = 0x60#8 ∧ p = .sr) ∨ (c = 0x70#8 ∧ s.oaddr.getLsbD 0 = true ∧ p = .srGc) ∨ (c = 0xA8#8 ∧ p = .st)

/-- `E-COMPLETE` with the 8-bit code `codeByte c` and `rx` is admitted and leads to phase `p`, with no draw. -/
def admits (s : State) (c : Code5) (rx : Option Byte) (p : Phase) : Prop :=
  completeAdmitted s c rx = true ∧ completePhase s c rx = (p, s.draws)

end Sys2Proof.Claims

open Sys2Proof Sys2Proof.Machine Sys2Proof.Claims

/-! ## Encodings -/

/-- Words written out from the encoding tables (R88, R89, examples of R98) decode to what they stand for. -/
def Obligations.WordsOfTheTablesDecode : Prop :=
  decode .command 0x0000#16 = .instr (.init false false 0x00#8) ∧
  decode .command 0x1800#16 = .instr (.start true false 0x00#8) ∧
  decode .command 0x3803#16 = .instr (.slaw true false 0x03#8) ∧
  decode .command 0x6C01#16 = .instr (.mrx true true 0x01#8) ∧
  decode .command 0xA805#16 = .instr (.stx true false 0x05#8) ∧
  decode .command 0xE001#16 = .instr (.setcb false false 0x01#8) ∧
  decode .register 0x4007#16 = .instr (.setb .ctrl 7#3) ∧
  decode .register 0x800E#16 = .instr (.wrb .ctrl 6#3 true) ∧
  decode .register 0x300C#16 = .instr (.wr .brg 0x0C#8)

/-- Decoding an encoded instruction on its port gives it back, for every instruction and every value of
its operands (R81, R82, R88, R89, R98). -/
def Obligations.DecodeOfEncodeIsTheInstruction : Prop :=
  ∀ i : Instr, decode (portOf i) (encode i) = .instr i

/-- Each word that is not reserved has one meaning, and encoding it gives the word and its port back. -/
def Obligations.EncodeOfDecodeIsTheWord : Prop :=
  ∀ (p : Port) (w : Word16) (i : Instr), decode p w = .instr i → portOf i = p ∧ encode i = w

/-- R90: exactly the reserved words decode to no instruction, and each is answered with `invalid-call`
(`RC = 1, STV = 0, DAV = 0`) and changes no state. -/
def Obligations.ReservedWordsAnswerInvalidCall : Prop :=
  responseWord .invalidCall = 0x8000#16 ∧
  ∀ (p : Port) (w : Word16),
    (reservedWord p w ↔ ∃ r, decode p w = .reserved r) ∧
    (¬ reservedWord p w ↔ ∃ i, decode p w = .instr i) ∧
    (reservedWord p w → ∀ s : State, activeSeq s = .idle → issue ⟨p, w⟩ s = .next (invalidCallOnly s))

/-- R83, R86: the fields of the response word, the numbers of the Transaction Status, and which sinks a
response writes. -/
def Obligations.ResponseWordAndSinks : Prop :=
  (∀ (ts : Option Ts) (d : Option Byte),
    (responseWord (.ok ts d)).getLsbD 15 = false ∧
    (responseWord (.ok ts d)).getLsbD 14 = ts.isSome ∧
    (responseWord (.ok ts d)).getLsbD 13 = d.isSome ∧
    (responseWord (.ok ts d)).getLsbD 12 = false ∧
    (responseWord (.ok ts d)).extractLsb' 8 4 = (match ts with | some t => tsNumber t | none => 0#4) ∧
    (responseWord (.ok ts d)).extractLsb' 0 8 = (match d with | some b => b | none => 0#8)) ∧
  responseWord .invalidCall = 0x8000#16 ∧
  [Ts.startSent, .startError, .repStartSent, .repStartError, .ackReceived, .nackReceived, .arbitrationLost,
    .addressError, .dataError, .ackSent, .nackSent].map tsNumber =
    [0#4, 1#4, 2#4, 3#4, 4#4, 5#4, 6#4, 7#4, 8#4, 9#4, 10#4] ∧
  (∀ (ts : Option Ts) (d : Option Byte) (f : Flow),
    (f.receive (.ok ts d)).stSink = (if ts.isSome then ts else f.stSink) ∧
    (f.receive (.ok ts d)).daSink = (if d.isSome then d else f.daSink) ∧
    (f.receive .invalidCall).stSink = f.stSink ∧
    (f.receive .invalidCall).daSink = f.daSink)

/-- R16, R40: a response idles the active context's sequencer and reaches its flow; a step pointer move
writes that sequencer only. The other context is untouched by both (R223). -/
def Obligations.RespondAndGotoTouchTheActiveContextOnly : Prop :=
  ∀ (s : State) (r : Resp) (i : Instr) (k : Nat) (t : Tmp),
    (s.inHandler = false →
      respond r s = { s with seqMain := .idle, hostMain := s.hostMain.receive r } ∧
      goto i k t s = { s with seqMain := .run i k t }) ∧
    (s.inHandler = true →
      respond r s = { s with seqHnd := .idle, hostHnd := s.hostHnd.receive r } ∧
      goto i k t s = { s with seqHnd := .run i k t })

/-! ## The step -/

/-- A step runs the decoded instruction. On the active context's turn, an idle context hands its next word
over and the step is `exec` of the instruction that word decodes to; a running context's step is `exec` of
the instruction it runs. Around `exec` the step takes the choice and, when issuing, the word. A reserved
next word (R90) is taken and answered with `invalid-call` in the same way, and nothing else changes; a main
flow with no word left idles. The schedule, the hand-over of words and the idle turn are the model's choice
(log entries 1, 2, 26, 29). -/
def Obligations.StepRunsTheDecodedInstruction : Prop :=
  ∀ s : State, s.cfg.wf = true →
    (turnOf s = .seq →
      (∀ (p : PortWord) (i : Instr), activeSeq s = .idle → nextWord s = some p →
        decode p.port p.word = .instr i → step s = exec i (takeWord (takeChoice s))) ∧
      (∀ (p : PortWord) (r : Reserved), activeSeq s = .idle → nextWord s = some p →
        decode p.port p.word = .reserved r → step s = .next (invalidCallOnly (takeWord (takeChoice s)))) ∧
      (s.inHandler = false → activeSeq s = .idle → nextWord s = none → step s = .next (takeChoice s)) ∧
      (∀ (i : Instr) (k : Nat) (t : Tmp), activeSeq s = .run i k t → step s = exec i (takeChoice s))) ∧
    (∀ (w : Nat) (i : Instr), decodeTableWord 16 w = some i →
      step (s.withFetchWord 16 w) = exec i (takeWord (takeChoice (s.withFetchWord 16 w))) ∧
      activeSeq (takeWord (takeChoice (s.withFetchWord 16 w))) = .idle)

/-- R11: a step is refused for an ill-formed configuration exactly when the configuration is ill formed. -/
def Obligations.IllFormedConfigurationIsRefused : Prop :=
  ∀ s : State,
    step s = .refused .illFormedConfiguration ↔
      ¬ ((s.cfg.role = .responder ∨ 10 ≤ s.cfg.rate.toNat) ∧ 0x01 ≤ s.cfg.ownAddr.toNat ∧
        s.cfg.ownAddr.toNat ≤ 0x77)

/-- R192 with its guard R191: the completion event is admitted (unconstrained: exactly while `EN = 1` and
`INT = 0`), and then writes the status code, the received byte if any, the flag and the latch, in one step,
and nothing else but, under `nominal`, the phase (with the draw of R208). Not admitted, it does not happen;
that the active context takes the turn instead is the model's choice (log entry 2). -/
def Obligations.CompletionEventEffect : Prop :=
  ∀ (s : State) (c : Code5) (rx : Option Byte), s.cfg.wf = true → nextChoice s = .complete c rx →
    (s.cfg.engine = .unconstrained →
      (completeAdmitted s c rx = true ↔ s.ctrl.en = true ∧ s.ctrl.int = false) ∧
      completePhase s c rx = (s.phase, s.draws)) ∧
    (completeAdmitted s c rx = true →
      s.ctrl.en = true ∧ s.ctrl.int = false ∧
      step s = .next { takeChoice s with
        stat := { s.stat with sc5 := c }
        data := (match rx with | some b => b | none => s.data)
        ctrl := { s.ctrl with int := true }
        irqPend := true
        phase := (completePhase s c rx).1
        draws := (completePhase s c rx).2 }) ∧
    (completeAdmitted s c rx = false → turnOf s = .seq)

/-- R193: the engine acts on a stop request exactly while `EN = 1`, `INT = 0` and `STO = 1`; it clears `STO`
(under `nominal` the phase becomes `IDLE`) and touches neither flag nor status nor latch. That `STO` clears
itself is general knowledge of the spec (G6, log entry 9); that the active context takes the turn where the
guard fails is the model's choice (log entry 2). -/
def Obligations.StopEventEffect : Prop :=
  ∀ s : State, s.cfg.wf = true → nextChoice s = .stop →
    (s.ctrl.en = true ∧ s.ctrl.int = false ∧ s.ctrl.sto = true →
      step s = .next { takeChoice s with
        ctrl := { s.ctrl with sto := false }
        phase := if s.cfg.engine = .nominal then .idle else s.phase }) ∧
    (¬ (s.ctrl.en = true ∧ s.ctrl.int = false ∧ s.ctrl.sto = true) → turnOf s = .seq)

/-- R200 to R203: the events the nominal engine admits in the controller phases, and the phase after each.
General knowledge of the spec (G5; log entry 8). -/
def Obligations.NominalControllerEvents : Prop :=
  ∀ (s : State) (c : Code5) (rx : Option Byte) (p : Phase),
    (nominalIn .idle true s →
      (admits s c rx p ↔
        (codeByte c = 0x08#8 ∧ rx = none ∧ p = .mStart) ∨ (s.ctrl.ea = true ∧ addressed s (codeByte c) p))) ∧
    (nominalIn .mStart true s ∨ nominalIn .mt true s ∨ nominalIn .mr true s →
      (admits s c rx p ↔ codeByte c = 0x10#8 ∧ rx = none ∧ p = .mStart)) ∧
    (nominalIn .mStart false s →
      (admits s c rx p ↔
        (s.data.getLsbD 0 = false ∧ (codeByte c = 0x18#8 ∨ codeByte c = 0x20#8) ∧ rx = none ∧ p = .mt) ∨
        (s.data.getLsbD 0 = true ∧ (codeByte c = 0x40#8 ∨ codeByte c = 0x48#8) ∧ rx = none ∧ p = .mr) ∨
        (codeByte c = 0x38#8 ∧ rx = none ∧ p = .idle) ∨
        (s.ctrl.ea = true ∧
          ((codeByte c = 0x68#8 ∧ p = .sr) ∨
           (codeByte c = 0x78#8 ∧ s.oaddr.getLsbD 0 = true ∧ p = .srGc) ∨
           (codeByte c = 0xB0#8 ∧ p = .st))))) ∧
    (nominalIn .mt false s →
      (admits s c rx p ↔
        ((codeByte c = 0x28#8 ∨ codeByte c = 0x30#8) ∧ rx = none ∧ p = .mt) ∨
        (codeByte c = 0x38#8 ∧ rx = none ∧ p = .idle))) ∧
    (nominalIn .mr false s →
      (admits s c rx p ↔
        (s.ctrl.ea = true ∧ codeByte c = 0x50#8 ∧ rx ≠ none ∧ p = .mr) ∨
        (s.ctrl.ea = false ∧ codeByte c = 0x58#8 ∧ rx ≠ none ∧ p = .mr) ∨
        (s.ctrl.ea = false ∧ codeByte c = 0x38#8 ∧ rx = none ∧ p = .idle)))

/-- R204 to R206: the events the nominal engine admits when listening and in the responder phases, and the
phase after each. General knowledge of the spec (G5; log entry 8). -/
def Obligations.NominalResponderEvents : Prop :=
  ∀ (s : State) (c : Code5) (rx : Option Byte) (p : Phase),
    (nominalIn .idle false s → (admits s c rx p ↔ s.ctrl.ea = true ∧ addressed s (codeByte c) p)) ∧
    (nominalIn .idle true s → s.ctrl.ea = true → addressed s (codeByte c) p → admits s c rx p) ∧
    (nominalIn .sr false s →
      (admits s c rx p ↔
        (s.ctrl.ea = true ∧ codeByte c = 0x80#8 ∧ rx ≠ none ∧ p = .sr) ∨
        (s.ctrl.ea = false ∧ codeByte c = 0x88#8 ∧ rx ≠ none ∧ p = .idle) ∨
        (codeByte c = 0xA0#8 ∧ rx = none ∧ p = .idle))) ∧
    (nominalIn .srGc false s →
      (admits s c rx p ↔
        (s.ctrl.ea = true ∧ codeByte c = 0x90#8 ∧ rx ≠ none ∧ p = .srGc) ∨
        (s.ctrl.ea = false ∧ codeByte c = 0x98#8 ∧ rx ≠ none ∧ p = .idle) ∨
        (codeByte c = 0xA0#8 ∧ rx = none ∧ p = .idle))) ∧
    (nominalIn .st false s →
      (admits s c rx p ↔
        (s.ctrl.ea = true ∧ codeByte c = 0xB8#8 ∧ rx = none ∧ p = .st) ∨
        (s.ctrl.ea = false ∧ codeByte c = 0xC8#8 ∧ rx = none ∧ p = .idle) ∨
        (codeByte c = 0xC0#8 ∧ rx = none ∧ p = .idle)))

/-- R207, R208: with a stop request alone the nominal engine admits no completion, only `E-STOP`; where no
rule names the combination it admits every completion and the phase is a draw. General knowledge of the
spec (G5; log entries 3, 8). -/
def Obligations.NominalStopAndUnnamedCombinations : Prop :=
  ∀ s : State, s.cfg.engine = .nominal → s.ctrl.en = true → s.ctrl.int = false →
    (s.ctrl.sto = true → s.ctrl.sta = false →
      (∀ c rx, completeAdmitted s c rx = false) ∧ stopAdmitted s = true) ∧
    (s.ctrl.sta = true → (s.ctrl.sto = true ∨ s.phase = .sr ∨ s.phase = .srGc ∨ s.phase = .st) →
      ∀ c rx, completeAdmitted s c rx = true ∧
        completePhase s c rx = (Config.freePhase s.draws, s.draws + 1))

/-! ## The completion interrupt -/

/-- R221, R223: delivery with a reference in the slot clears the latch, sets `in_handler`, starts the
registered program at its first instruction, and changes nothing else; a reference outside the domain is
refused. The registered program is that of the first pair of `HANDLERS` whose id is the reference: that the
map is a list whose first pair counts is the model's choice (log entry 7). -/
def Obligations.InterruptEntry : Prop :=
  ∀ s : State, s.cfg.wf = true → nextChoice s = .deliver → s.irqPend = true → s.ctrl.ie = true →
    s.inHandler = false → s.cb ≠ 0#8 →
    (∀ before prog after, s.cfg.handlers = before ++ (s.cb, prog) :: after →
      (∀ p ∈ before, p.1 ≠ s.cb) →
      step s = .next { takeChoice s with
        irqPend := false
        inHandler := true
        seqHnd := .idle
        hostHnd := { s.hostHnd with prog := prog } }) ∧
    ((∀ p ∈ s.cfg.handlers, p.1 ≠ s.cb) → step s = .refused .unknownHandler)

/-- R222: delivery to the empty slot faults under `fault`; under `noop` it clears `irq_pend` and does
nothing else. The default is `fault`. -/
def Obligations.DeliveryToTheEmptySlot : Prop :=
  State.reset.cfg.emptySlot = .fault ∧
  ∀ s : State, s.cfg.wf = true → nextChoice s = .deliver → s.irqPend = true → s.ctrl.ie = true →
    s.inHandler = false → s.cb = 0#8 →
    (s.cfg.emptySlot = .fault → step s = .fault .emptySlotDelivery) ∧
    (s.cfg.emptySlot = .noop → step s = .next { takeChoice s with irqPend := false })

/-- R220, R226: a delivery happens exactly under its guard; in particular interrupts do not nest. That
outside the guard the turn is the active context's is the model's choice (log entry 2). -/
def Obligations.DeliveryOnlyUnderItsGuard : Prop :=
  ∀ s : State, nextChoice s = .deliver →
    (turnOf s = .deliver ↔ s.irqPend = true ∧ s.ctrl.ie = true ∧ s.inHandler = false) ∧
    (turnOf s ≠ .deliver → turnOf s = .seq)

/-- R225: when the handler's last instruction has responded, the handler's turn clears `in_handler`, and
nothing is restored. That this is a step of its own is the model's choice (log entry 20). -/
def Obligations.HandlerReturn : Prop :=
  ∀ s : State, s.cfg.wf = true → turnOf s = .seq → s.inHandler = true → s.seqHnd = .idle →
    s.hostHnd.prog = [] →
    step s = .next { takeChoice s with inHandler := false, seqHnd := .idle }

/-- R39, R223: while the handler runs, and on entering it, no step but a reset touches the main context's
record or flow. -/
def Obligations.MainContextIsFrozenByTheHandler : Prop :=
  ∀ s s' : State, step s = .next s' → turnOf s ≠ .reset → (s.inHandler = true ∨ s'.inHandler = true) →
    s'.seqMain = s.seqMain ∧ s'.hostMain = s.hostMain

/-- R37: but for a reset, only `SETCB`'s write step changes the callback slot, and from a state that meets
the invariant no step empties it. -/
def Obligations.SlotIsWrittenOnlyBySetcb : Prop :=
  ∀ s s' : State, step s = .next s' → turnOf s ≠ .reset →
    (s'.cb ≠ s.cb → turnOf s = .seq ∧ ∃ sv dv h t, activeSeq s = .run (.setcb sv dv h) 1 t ∧ s'.cb = h) ∧
    (s.Inv = true → s.cb ≠ 0#8 → s'.cb ≠ 0#8)

/-! ## Rules of the whole machine -/

/-- R23, R38: only a completion event sets the flag, and only a completion event sets the latch. The host
can never set `INT` to 1. -/
def Obligations.OnlyCompletionRaisesTheFlag : Prop :=
  ∀ s s' : State, step s = .next s' →
    (s.ctrl.int = false → s'.ctrl.int = true → ∃ c rx, turnOf s = .complete c rx) ∧
    (s.irqPend = false → s'.irqPend = true → ∃ c rx, turnOf s = .complete c rx)

/-- R34: the status code changes only at a completion event and at reset. -/
def Obligations.StatusCodeChangesOnlyAtCompletion : Prop :=
  ∀ s s' : State, step s = .next s' → s'.stat.sc5 ≠ s.stat.sc5 →
    (∃ c rx, turnOf s = .complete c rx) ∨ turnOf s = .reset

/-- R10, R45: no step changes the configuration, reset included. -/
def Obligations.ConfigurationIsImmutable : Prop :=
  ∀ s s' : State, step s = .next s' → s'.cfg = s.cfg

/-- Every step keeps the invariant `State.Inv` (R28, R37 to R41). -/
def Obligations.EveryStepKeepsTheInvariant : Prop :=
  ∀ s s' : State, s.Inv = true → step s = .next s' → s'.Inv = true

/-- The reset state meets the invariant, and its configuration (the model's choice, log entry 6) is well
formed. -/
def Obligations.ResetMeetsTheInvariant : Prop :=
  State.reset.Inv = true ∧ State.reset.cfg.wf = true

/-- R17, R215: from a state that meets the invariant, with a well-formed configuration, a step stops only at
an interrupt delivery: with a fault where the slot is empty under the policy `fault`, with a refusal where
the reference is outside `HANDLERS`. Every step of every instruction answers a next state. -/
def Obligations.OnlyADeliveryStopsTheMachine : Prop :=
  ∀ s : State, s.cfg.wf = true → s.Inv = true →
    (∀ f, step s = .fault f →
      turnOf s = .deliver ∧ s.cb = 0#8 ∧ s.cfg.emptySlot = .fault ∧ f = .emptySlotDelivery) ∧
    (∀ r, step s = .refused r →
      turnOf s = .deliver ∧ s.cb ≠ 0#8 ∧ (∀ p ∈ s.cfg.handlers, p.1 ≠ s.cb) ∧ r = .unknownHandler) ∧
    (turnOf s ≠ .deliver → ∃ s', step s = .next s')

/-- R46, R240, R241: what reset leaves, in the state after reset and after a reset event from any state: the
values the spec gives. (`DATA`, `OADDR`, `STAT`, `BRG` are unspecified and not mentioned.) -/
def Obligations.WhatResetLeaves : Prop :=
  (∀ s : State, (s = State.reset ∨ ∃ u, u.cfg.wf = true ∧ nextChoice u = .reset ∧ step u = .next s) →
    readReg .ctrl s = 0x00#8 ∧ s.cb = 0#8 ∧ s.irqPend = false ∧ s.inHandler = false ∧
    s.seqMain = .idle ∧ s.seqHnd = .idle ∧ s.phase = .idle ∧ (readReg .stat s).getLsbD 2 = false) ∧
  (∀ u : State, u.cfg.wf = true → nextChoice u = .reset → ∃ s, step u = .next s)

/-- R8, R42, R43 and the step lists: what one step of each instruction leaves unchanged, wherever it answers
a next state. The status code, the parameters and the model's schedule never change; each register and flag
changes only under the instructions named; the other context is untouched. -/
def Obligations.FrameOfEveryInstruction : Prop :=
  ∀ (i : Instr) (s s' : State), exec i s = .next s' →
    (s'.stat.sc5 = s.stat.sc5 ∧ s'.cfg = s.cfg ∧ s'.sched = s.sched ∧ s'.tick = s.tick ∧
      s'.inHandler = s.inHandler) ∧
    (s.inHandler = true → s'.seqMain = s.seqMain ∧ s'.hostMain = s.hostMain) ∧
    (s.inHandler = false → s'.seqHnd = s.seqHnd ∧ s'.hostHnd = s.hostHnd) ∧
    (s'.cb ≠ s.cb → ∃ sv dv h, i = .setcb sv dv h) ∧
    (s'.oaddr ≠ s.oaddr → (∃ sv dv a, i = .init sv dv a) ∨ (∃ v, i = .wr .oaddr v) ∨
      (∃ n, i = .setb .oaddr n) ∨ (∃ n, i = .clrb .oaddr n) ∨ (∃ n b, i = .wrb .oaddr n b)) ∧
    (s'.brg ≠ s.brg → (∃ sv dv a, i = .init sv dv a) ∨ (∃ v, i = .wr .brg v) ∨
      (∃ n, i = .setb .brg n) ∨ (∃ n, i = .clrb .brg n) ∨ (∃ n b, i = .wrb .brg n b)) ∧
    (s'.stat.ps ≠ s.stat.ps → (∃ sv dv a, i = .init sv dv a) ∨ (∃ v, i = .wr .stat v) ∨
      (∃ n, i = .setb .stat n) ∨ (∃ n, i = .clrb .stat n) ∨ (∃ n b, i = .wrb .stat n b)) ∧
    (s'.data ≠ s.data ∨ s'.ctrl.wc ≠ s.ctrl.wc ∨ s'.draws ≠ s.draws →
      (∃ sv dv a, i = .slaw sv dv a ∨ i = .slar sv dv a ∨ i = .mtx sv dv a ∨ i = .stx sv dv a) ∨
      (∃ v, i = .wr .data v) ∨ (∃ n, i = .setb .data n) ∨ (∃ n, i = .clrb .data n) ∨
      (∃ n b, i = .wrb .data n b)) ∧
    (s'.ctrl.ea ≠ s.ctrl.ea → (∃ sv dv a, i = .mrx sv dv a ∨ i = .srx sv dv a ∨ i = .swait sv dv a) ∨
      (∃ v, i = .wr .ctrl v) ∨ i = .setb .ctrl 6#3 ∨ i = .clrb .ctrl 6#3 ∨ (∃ b, i = .wrb .ctrl 6#3 b)) ∧
    (s'.ctrl.ie ≠ s.ctrl.ie → (∃ sv dv a, i = .ien sv dv a ∨ i = .idis sv dv a) ∨
      (∃ v, i = .wr .ctrl v) ∨ i = .setb .ctrl 0#3 ∨ i = .clrb .ctrl 0#3 ∨ (∃ b, i = .wrb .ctrl 0#3 b)) ∧
    (s'.ctrl.en ≠ s.ctrl.en ∨ s'.phase ≠ s.phase → (∃ sv dv a, i = .init sv dv a) ∨
      (∃ v, i = .wr .ctrl v) ∨ i = .setb .ctrl 2#3 ∨ i = .clrb .ctrl 2#3 ∨ (∃ b, i = .wrb .ctrl 2#3 b)) ∧
    (s'.ctrl.int ≠ s.ctrl.int ∨ s'.irqPend ≠ s.irqPend →
      s'.ctrl.int = false ∧ s'.irqPend = false ∧
      ((∃ sv dv a, i = .start sv dv a ∨ i = .rstart sv dv a ∨ i = .slaw sv dv a ∨ i = .slar sv dv a ∨
          i = .mtx sv dv a ∨ i = .mrx sv dv a ∨ i = .stop sv dv a ∨ i = .srx sv dv a ∨ i = .stx sv dv a ∨
          i = .clrf sv dv a) ∨
        (∃ v, i = .wr .ctrl v ∧ v.getLsbD 7 = true) ∨ i = .setb .ctrl 7#3 ∨ i = .wrb .ctrl 7#3 true)) ∧
    (s'.ctrl.sta ≠ s.ctrl.sta ∨ s'.ctrl.sto ≠ s.ctrl.sto →
      (∃ sv dv a, i = .start sv dv a ∨ i = .rstart sv dv a ∨ i = .slaw sv dv a ∨ i = .slar sv dv a ∨
        i = .mtx sv dv a ∨ i = .mrx sv dv a ∨ i = .stop sv dv a ∨ i = .swait sv dv a ∨ i = .srx sv dv a ∨
        i = .stx sv dv a) ∨
      (∃ v, i = .wr .ctrl v) ∨ (∃ n, (n = 4#3 ∨ n = 5#3) ∧
        (i = .setb .ctrl n ∨ i = .clrb .ctrl n ∨ (∃ b, i = .wrb .ctrl n b))))

/-! ## Format C: the check and the wait -/

/-- R160, R210: step 0 of every command. A violation answers `invalid-call` with no other state change,
whatever the registers hold; without one the operation goes to its step 1, reading and writing no register.
A word with `Z ≠ 00` is answered the same way. -/
def Obligations.ContractCheck : Prop :=
  (∀ (i : Instr) (s : State), portOf i = .command → activeSeq s = .idle →
    (violates i → exec i s = .next (invalidCallOnly s)) ∧
    (¬ violates i → exec i s = .next (goto i 1 Tmp.zero s))) ∧
  (∀ (w : Word16) (s : State), w.extractLsb' 8 2 ≠ 0#2 → activeSeq s = .idle →
    issue ⟨.command, w⟩ s = .next (invalidCallOnly s))

/-- R163: a poll of the flag passes to the next step when it reads 1 and repeats the same step when it reads
0, unbounded, and writes no register; it does not clear the flag. -/
def Obligations.WaitPollsTheFlag : Prop :=
  ∀ (i : Instr) (k : Nat) (t : Tmp) (s : State), (stepsOf s.cfg i)[k]? = some .wait → atStep i k t s →
    (s.ctrl.int = true → exec i s = .next (goto i (k + 1) { t with b := true } s)) ∧
    (s.ctrl.int = false → exec i s = .next (goto i k { t with b := false } s))

/-! ## Format C: the step lists -/

/-- `INIT` (R130): every step of its list, and so its frame. Written for any `SV`, `DV`, `ARG`. -/
def Obligations.InitStepList : Prop :=
  ∀ (sv dv : Bool) (a : Byte) (s : State) (t : Tmp), let i := Instr.init sv dv a
    (activeSeq s = .idle → exec i s = .next (goto i 1 Tmp.zero s)) ∧
    (atStep i 1 t s → exec i s = .next (goto i 2 t { s with brg := s.cfg.rate })) ∧
    (atStep i 2 t s → exec i s = .next (goto i 3 t { s with stat := { s.stat with
      ps := BitVec.ofBool (s.stat.ps.getLsbD 1) ++
        BitVec.ofBool (decide (s.cfg.prescaler = .by4 ∨ s.cfg.prescaler = .by64)) } })) ∧
    (atStep i 3 t s → exec i s = .next (goto i 4 t { s with stat := { s.stat with
      ps := BitVec.ofBool (decide (s.cfg.prescaler = .by16 ∨ s.cfg.prescaler = .by64)) ++
        BitVec.ofBool (s.stat.ps.getLsbD 0) } })) ∧
    (atStep i 4 t s → exec i s = .next (goto i 5 t { s with oaddr := s.cfg.ownAddr ++ BitVec.ofBool s.cfg.gcEn })) ∧
    (atStep i 5 t s → exec i s = .next (goto i 6 t { s with ctrl := { s.ctrl with en := true } })) ∧
    (atStep i 6 t s → exec i s = .next (respond (.ok none none) s))

/-- `START` (R140): every step of its list with `SV = 1`. -/
def Obligations.StartStepList : Prop :=
  ∀ (dv : Bool) (a : Byte) (s : State) (t : Tmp), let i := Instr.start true dv a
    (activeSeq s = .idle → exec i s = .next (goto i 1 Tmp.zero s)) ∧
    (atStep i 1 t s → exec i s = .next (goto i 2 t { s with ctrl := { s.ctrl with sto := false } })) ∧
    (atStep i 2 t s → exec i s = .next (goto i 3 t { s with ctrl := { s.ctrl with sta := true } })) ∧
    (atStep i 3 t s → exec i s = .next (goto i 4 t (flagCleared s))) ∧
    (atStep i 4 t s → s.ctrl.int = true → exec i s = .next (goto i 5 { t with b := true } s)) ∧
    (atStep i 4 t s → s.ctrl.int = false → exec i s = .next (goto i 4 { t with b := false } s)) ∧
    (atStep i 5 t s → exec i s = .next (goto i 6 { t with s := s.stat.sc5 ++ 0#1 ++ s.stat.ps } s)) ∧
    (atStep i 6 t s → exec i s = .next (respond (.ok (some
      (if t.s &&& 0xF8#8 = 0x08#8 then .startSent else .startError)) none) s))

/-- `RSTART` (R141, R147): the register steps of `START`, with its own decoder. -/
def Obligations.RstartStepList : Prop :=
  ∀ (dv : Bool) (a : Byte) (s : State) (t : Tmp), let i := Instr.rstart true dv a
    (activeSeq s = .idle → exec i s = .next (goto i 1 Tmp.zero s)) ∧
    (atStep i 1 t s → exec i s = .next (goto i 2 t { s with ctrl := { s.ctrl with sto := false } })) ∧
    (atStep i 2 t s → exec i s = .next (goto i 3 t { s with ctrl := { s.ctrl with sta := true } })) ∧
    (atStep i 3 t s → exec i s = .next (goto i 4 t (flagCleared s))) ∧
    (atStep i 4 t s → s.ctrl.int = true → exec i s = .next (goto i 5 { t with b := true } s)) ∧
    (atStep i 4 t s → s.ctrl.int = false → exec i s = .next (goto i 4 { t with b := false } s)) ∧
    (atStep i 5 t s → exec i s = .next (goto i 6 { t with s := s.stat.sc5 ++ 0#1 ++ s.stat.ps } s)) ∧
    (atStep i 6 t s → exec i s = .next (respond (.ok (some
      (if t.s &&& 0xF8#8 = 0x10#8 then .repStartSent else .repStartError)) none) s))

/-- `SLAW addr` (R142): `DATA` is loaded with `a[6:0] ++ 0`, then `XFER_BYTE`, the status read, the decode. A
load with the flag clear collides (general knowledge of the spec, G3; log entries 3, 10). -/
def Obligations.SlawStepList : Prop :=
  ∀ (dv : Bool) (a : Byte) (s : State) (t : Tmp), let i := Instr.slaw true dv a
    (activeSeq s = .idle → exec i s = .next (goto i 1 Tmp.zero s)) ∧
    (atStep i 1 t s → exec i s = .next (goto i 2 t (dataWritten (a.extractLsb' 0 7 ++ 0#1) s))) ∧
    xferThenStatus i 2 ∧
    (atStep i 7 t s → exec i s = .next (respond (.ok (some
      (if t.s &&& 0xF8#8 = 0x18#8 then .ackReceived
       else if t.s &&& 0xF8#8 = 0x20#8 then .nackReceived
       else if t.s &&& 0xF8#8 = 0x38#8 then .arbitrationLost
       else .addressError)) none) s))

/-- `SLAR addr` (R143): as `SLAW`, with bit 0 of `DATA` set by a second write. Either write may collide (log
entries 3, 10). -/
def Obligations.SlarStepList : Prop :=
  ∀ (dv : Bool) (a : Byte) (s : State) (t : Tmp), let i := Instr.slar true dv a
    (activeSeq s = .idle → exec i s = .next (goto i 1 Tmp.zero s)) ∧
    (atStep i 1 t s → exec i s = .next (goto i 2 t (dataWritten (a.extractLsb' 0 7 ++ 0#1) s))) ∧
    (atStep i 2 t s → exec i s = .next (goto i 3 t (dataWritten (s.data ||| 1#8) s))) ∧
    xferThenStatus i 3 ∧
    (atStep i 8 t s → exec i s = .next (respond (.ok (some
      (if t.s &&& 0xF8#8 = 0x40#8 then .ackReceived
       else if t.s &&& 0xF8#8 = 0x48#8 then .nackReceived
       else if t.s &&& 0xF8#8 = 0x38#8 then .arbitrationLost
       else .addressError)) none) s))

/-- `MTX byte` (R144) and `STX byte` (R152): one list of register steps, two decoders; the generic error of
`MTX` is `MSEND_ERR` (R170). Which of `STX`'s codes mean ack and which nack is general knowledge of the spec
(G2; log entry 11); so is the rule of a load that collides (G3; log entries 3, 10). -/
def Obligations.SendDataStepLists : Prop :=
  ∀ (dv : Bool) (b : Byte) (s : State) (t : Tmp),
    (∀ i : Instr, (i = .mtx true dv b ∨ i = .stx true dv b) →
      (activeSeq s = .idle → exec i s = .next (goto i 1 Tmp.zero s)) ∧
      (atStep i 1 t s → exec i s = .next (goto i 2 t (dataWritten b s))) ∧
      xferThenStatus i 2) ∧
    (atStep (.mtx true dv b) 7 t s → exec (.mtx true dv b) s = .next (respond (.ok (some
      (if t.s &&& 0xF8#8 = 0x28#8 then .ackReceived
       else if t.s &&& 0xF8#8 = 0x30#8 then .nackReceived
       else if t.s &&& 0xF8#8 = 0x38#8 then .arbitrationLost
       else if s.cfg.msendErr = .dataError then .dataError
       else .addressError)) none) s)) ∧
    (atStep (.stx true dv b) 7 t s → exec (.stx true dv b) s = .next (respond (.ok (some
      (if t.s &&& 0xF8#8 = 0xB8#8 ∨ t.s &&& 0xF8#8 = 0xC8#8 then .ackReceived
       else if t.s &&& 0xF8#8 = 0xC0#8 then .nackReceived
       else .dataError)) none) s))

/-- `MRX directive` (R145) and `SRX directive` (R151): `EA` from the directive, `XFER_BYTE`, the status read;
on a success code the byte in `DATA` is copied out, else no byte. Which of `SRX`'s codes mean ack-sent and
which nack-sent is general knowledge of the spec (G2; log entry 11). -/
def Obligations.ReceiveDataStepLists : Prop :=
  ∀ (q : Byte) (s : State) (t : Tmp), (q = 0x00#8 ∨ q = 0x01#8) →
    (∀ i : Instr, (i = .mrx true true q ∨ i = .srx true true q) →
      (activeSeq s = .idle → exec i s = .next (goto i 1 Tmp.zero s)) ∧
      (atStep i 1 t s →
        exec i s = .next (goto i 2 t { s with ctrl := { s.ctrl with ea := decide (q = 0x01#8) } })) ∧
      xferThenStatus i 2) ∧
    (atStep (.mrx true true q) 7 t s → exec (.mrx true true q) s = .next (respond
      (if t.s &&& 0xF8#8 = 0x50#8 then .ok (some .ackSent) (some s.data)
       else if t.s &&& 0xF8#8 = 0x58#8 then .ok (some .nackSent) (some s.data)
       else if t.s &&& 0xF8#8 = 0x38#8 then .ok (some .arbitrationLost) none
       else .ok (some .dataError) none) s)) ∧
    (atStep (.srx true true q) 7 t s → exec (.srx true true q) s = .next (respond
      (if t.s &&& 0xF8#8 = 0x80#8 ∨ t.s &&& 0xF8#8 = 0x90#8 then .ok (some .ackSent) (some s.data)
       else if t.s &&& 0xF8#8 = 0x88#8 ∨ t.s &&& 0xF8#8 = 0x98#8 then .ok (some .nackSent) (some s.data)
       else .ok (some .dataError) none) s))

/-- `STOP` (R146): no wait, no status; any `SV`, `DV`, `ARG`. -/
def Obligations.StopStepList : Prop :=
  ∀ (sv dv : Bool) (a : Byte) (s : State) (t : Tmp), let i := Instr.stop sv dv a
    (activeSeq s = .idle → exec i s = .next (goto i 1 Tmp.zero s)) ∧
    (atStep i 1 t s → exec i s = .next (goto i 2 t { s with ctrl := { s.ctrl with sta := false } })) ∧
    (atStep i 2 t s → exec i s = .next (goto i 3 t { s with ctrl := { s.ctrl with sto := true } })) ∧
    (atStep i 3 t s → exec i s = .next (goto i 4 t (flagCleared s))) ∧
    (atStep i 4 t s → exec i s = .next (respond (.ok none none) s))

/-- `SWAIT` (R150): no step of it clears the flag. -/
def Obligations.SwaitStepList : Prop :=
  ∀ (dv : Bool) (a : Byte) (s : State) (t : Tmp), let i := Instr.swait true dv a
    (activeSeq s = .idle → exec i s = .next (goto i 1 Tmp.zero s)) ∧
    (atStep i 1 t s → exec i s = .next (goto i 2 t { s with ctrl := { s.ctrl with sta := false } })) ∧
    (atStep i 2 t s → exec i s = .next (goto i 3 t { s with ctrl := { s.ctrl with sto := false } })) ∧
    (atStep i 3 t s → exec i s = .next (goto i 4 t { s with ctrl := { s.ctrl with ea := true } })) ∧
    (atStep i 4 t s → s.ctrl.int = true → exec i s = .next (goto i 5 { t with b := true } s)) ∧
    (atStep i 4 t s → s.ctrl.int = false → exec i s = .next (goto i 4 { t with b := false } s)) ∧
    (atStep i 5 t s → exec i s = .next (goto i 6 { t with s := s.stat.sc5 ++ 0#1 ++ s.stat.ps } s)) ∧
    (atStep i 6 t s → exec i s = .next (respond (.ok (some
      (if t.s &&& 0xF8#8 = 0x60#8 ∨ t.s &&& 0xF8#8 = 0x68#8 ∨ t.s &&& 0xF8#8 = 0x70#8 ∨
          t.s &&& 0xF8#8 = 0x78#8 then .ackSent else .addressError)) none) s))

/-- `CLRF`, `IEN`, `IDIS`, `SETCB` (R180 to R184): the check, one write, `ok`, nothing else. `SETCB` is with
a reference that is not empty. -/
def Obligations.FlagAndCallbackStepLists : Prop :=
  ∀ (sv dv : Bool) (a : Byte) (s : State) (t : Tmp),
    (∀ i : Instr, (i = .clrf sv dv a ∨ i = .ien sv dv a ∨ i = .idis sv dv a ∨ (i = .setcb sv dv a ∧ a ≠ 0#8)) →
      (activeSeq s = .idle → exec i s = .next (goto i 1 Tmp.zero s)) ∧
      (atStep i 2 t s → exec i s = .next (respond (.ok none none) s))) ∧
    (atStep (.clrf sv dv a) 1 t s →
      exec (.clrf sv dv a) s = .next (goto (.clrf sv dv a) 2 t (flagCleared s))) ∧
    (atStep (.ien sv dv a) 1 t s →
      exec (.ien sv dv a) s = .next (goto (.ien sv dv a) 2 t { s with ctrl := { s.ctrl with ie := true } })) ∧
    (atStep (.idis sv dv a) 1 t s →
      exec (.idis sv dv a) s = .next (goto (.idis sv dv a) 2 t { s with ctrl := { s.ctrl with ie := false } })) ∧
    (atStep (.setcb sv dv a) 1 t s →
      exec (.setcb sv dv a) s = .next (goto (.setcb sv dv a) 2 t { s with cb := a }))

/-! ## Format C: whole operations -/

/-- R132: `INIT` from any state with an idle context, whatever the configuration: its seven steps leave
`OADDR`, `BRG`, `STAT.PS` and `EN` as configured, answer `ok`, and change nothing else. -/
def Obligations.InitFromAnyState : Prop :=
  ∀ (sv dv : Bool) (a : Byte) (s : State), activeSeq s = .idle →
    execTimes 7 (.init sv dv a) s = .next (respond (.ok none none) { s with
      oaddr := s.cfg.ownAddr ++ BitVec.ofBool s.cfg.gcEn
      brg := s.cfg.rate
      stat := { s.stat with ps := (match s.cfg.prescaler with
        | .by1 => 0b00#2 | .by4 => 0b01#2 | .by16 => 0b10#2 | .by64 => 0b11#2) }
      ctrl := { s.ctrl with en := true } })

/-- `START` and `RSTART` whole (R140, R141, R159): from an idle context, with one completion event at the
`WAIT`, the operation answers the decode of the event's code and leaves `STA = 1`, `STO = 0`, `INT = 1`. -/
def Obligations.StartFromIssueToResponse : Prop :=
  ∀ (dv : Bool) (a : Byte) (s : State) (c : Code5) (rx : Option Byte), activeSeq s = .idle →
    let u := engineComplete c rx (flagCleared { s with ctrl := { s.ctrl with sto := false, sta := true } })
    execAround 4 3 c rx (.start true dv a) s = .next (respond (.ok (some
      (if codeByte c = 0x08#8 then .startSent else .startError)) none) u) ∧
    execAround 4 3 c rx (.rstart true dv a) s = .next (respond (.ok (some
      (if codeByte c = 0x10#8 then .repStartSent else .repStartError)) none) u) ∧
    u.ctrl.sta = true ∧ u.ctrl.sto = false ∧ u.ctrl.int = true

/-- `SLAW`, `SLAR`, `MTX`, `STX` whole, issued with the flag set (R142, R143, R144, R152): the byte that is on
`DATA` when the engine acts, and the answer. Which of `STX`'s codes mean ack and which nack is general
knowledge of the spec (G2; log entry 11). -/
def Obligations.TransfersFromIssueToResponse : Prop :=
  ∀ (dv : Bool) (a : Byte) (s : State) (c : Code5) (rx : Option Byte), activeSeq s = .idle →
    s.ctrl.int = true →
    let loaded (v : Byte) : State := flagCleared { s with
      data := v, ctrl := { s.ctrl with wc := false, sta := false, sto := false } }
    execAround 5 3 c rx (.slaw true dv a) s = .next (respond (.ok (some
      (if codeByte c = 0x18#8 then .ackReceived else if codeByte c = 0x20#8 then .nackReceived
       else if codeByte c = 0x38#8 then .arbitrationLost else .addressError)) none)
      (engineComplete c rx (loaded (a.extractLsb' 0 7 ++ 0#1)))) ∧
    execAround 6 3 c rx (.slar true dv a) s = .next (respond (.ok (some
      (if codeByte c = 0x40#8 then .ackReceived else if codeByte c = 0x48#8 then .nackReceived
       else if codeByte c = 0x38#8 then .arbitrationLost else .addressError)) none)
      (engineComplete c rx (loaded (a.extractLsb' 0 7 ++ 1#1)))) ∧
    execAround 5 3 c rx (.mtx true dv a) s = .next (respond (.ok (some
      (if codeByte c = 0x28#8 then .ackReceived else if codeByte c = 0x30#8 then .nackReceived
       else if codeByte c = 0x38#8 then .arbitrationLost
       else if s.cfg.msendErr = .dataError then .dataError else .addressError)) none)
      (engineComplete c rx (loaded a))) ∧
    execAround 5 3 c rx (.stx true dv a) s = .next (respond (.ok (some
      (if codeByte c = 0xB8#8 ∨ codeByte c = 0xC8#8 then .ackReceived
       else if codeByte c = 0xC0#8 then .nackReceived else .dataError)) none)
      (engineComplete c rx (loaded a)))

/-- `MRX` and `SRX` whole (R145, R151, R258): the answer, the byte, and the caller's data sink, which a
non-success code leaves as it was. Which of `SRX`'s codes mean ack-sent and which nack-sent is general
knowledge of the spec (G2; log entry 11). -/
def Obligations.ReceivesFromIssueToResponse : Prop :=
  ∀ (q : Byte) (s : State) (c : Code5) (rx : Option Byte), activeSeq s = .idle →
    (q = 0x00#8 ∨ q = 0x01#8) →
    let byte : Byte := (match rx with | some b => b | none => s.data)
    let u := engineComplete c rx (flagCleared { s with
      ctrl := { s.ctrl with ea := decide (q = 0x01#8), sta := false, sto := false } })
    execAround 5 3 c rx (.mrx true true q) s = .next (respond
      (if codeByte c = 0x50#8 then .ok (some .ackSent) (some byte)
       else if codeByte c = 0x58#8 then .ok (some .nackSent) (some byte)
       else if codeByte c = 0x38#8 then .ok (some .arbitrationLost) none
       else .ok (some .dataError) none) u) ∧
    execAround 5 3 c rx (.srx true true q) s = .next (respond
      (if codeByte c = 0x80#8 ∨ codeByte c = 0x90#8 then .ok (some .ackSent) (some byte)
       else if codeByte c = 0x88#8 ∨ codeByte c = 0x98#8 then .ok (some .nackSent) (some byte)
       else .ok (some .dataError) none) u) ∧
    (∀ ts, (activeFlow (respond (.ok (some ts) none) u)).daSink = (activeFlow s).daSink)

/-- R153: `SWAIT` issued with the flag set passes its `WAIT` at the first poll and answers the decode of the
status code already in `STAT`; issued with the flag clear it answers the decode of the completion event. -/
def Obligations.SwaitWithAndWithoutAStaleFlag : Prop :=
  ∀ (dv : Bool) (a : Byte) (s : State) (c : Code5) (rx : Option Byte), activeSeq s = .idle →
    let u : State := { s with ctrl := { s.ctrl with sta := false, sto := false, ea := true } }
    let answer (code : Byte) : Resp := .ok (some
      (if code = 0x60#8 ∨ code = 0x68#8 ∨ code = 0x70#8 ∨ code = 0x78#8 then .ackSent else .addressError)) none
    (s.ctrl.int = true →
      execTimes 7 (.swait true dv a) s = .next (respond (answer (codeByte s.stat.sc5)) u)) ∧
    (s.ctrl.int = false →
      execAround 4 3 c rx (.swait true dv a) s =
        .next (respond (answer (codeByte c)) (engineComplete c rx u)))

/-- `STOP`, `CLRF`, `IEN`, `IDIS` and `SETCB` whole (R146, R181 to R184): from an idle context they run to
their response without a wait, whatever the flag holds, and leave what their rules say and nothing else
changed. `SETCB` is with a reference that is not empty. -/
def Obligations.StopAndFlagOperationsFromIssueToResponse : Prop :=
  ∀ (sv dv : Bool) (a : Byte) (s : State), activeSeq s = .idle →
    execTimes 5 (.stop sv dv a) s = .next (respond (.ok none none)
      (flagCleared { s with ctrl := { s.ctrl with sta := false, sto := true } })) ∧
    execTimes 3 (.clrf sv dv a) s = .next (respond (.ok none none) (flagCleared s)) ∧
    execTimes 3 (.ien sv dv a) s =
      .next (respond (.ok none none) { s with ctrl := { s.ctrl with ie := true } }) ∧
    execTimes 3 (.idis sv dv a) s =
      .next (respond (.ok none none) { s with ctrl := { s.ctrl with ie := false } }) ∧
    (a ≠ 0x00#8 →
      execTimes 3 (.setcb sv dv a) s = .next (respond (.ok none none) { s with cb := a }))

/-- R252, R251: with the peripheral disabled and the flag clear, an operation at its `WAIT` stutters for any
number of steps of any schedule without a reset: no register, sequencer or flow changes but the poll's own
record, in which only the polled bit is written, and the operation never responds. A choice whose guard
fails gives the turn to the polling context: the model's choice (log entry 2). -/
def Obligations.WaitHangsWhileDisabled : Prop :=
  ∀ (n : Nat) (i : Instr) (k : Nat) (t : Tmp) (s : State), s.cfg.wf = true → s.ctrl.en = false →
    s.ctrl.int = false → s.irqPend = false → s.sched.length = n → Choice.reset ∉ s.sched →
    (stepsOf s.cfg i)[k]? = some .wait → atStep i k t s →
    stepTimes n s = .next
      (goto i k (if n = 0 then t else { t with b := false }) { s with sched := [], tick := s.tick + n })

/-! ## Format R -/

/-- `RD reg` (R121): answers the byte composed from the register's fields, reserved bits 0, and changes
nothing but the flow it answers. -/
def Obligations.RdAnswersTheComposedByte : Prop :=
  ∀ (reg : Reg) (a : Byte) (s : State), activeSeq s = .idle →
    exec (.rd reg a) s = .next (respond (.ok none (some (match reg with
      | .ctrl => BitVec.ofBool s.ctrl.int ++ BitVec.ofBool s.ctrl.ea ++ BitVec.ofBool s.ctrl.sta ++
          BitVec.ofBool s.ctrl.sto ++ BitVec.ofBool s.ctrl.wc ++ BitVec.ofBool s.ctrl.en ++ 0#1 ++
          BitVec.ofBool s.ctrl.ie
      | .data => s.data
      | .oaddr => s.oaddr
      | .stat => s.stat.sc5 ++ 0#1 ++ s.stat.ps
      | .brg => s.brg))) s)

/-- `WR reg, byte` (R122): the write of each register, all bits in one step, nothing else changed. The rule of
a write of `DATA` that collides is general knowledge of the spec (G3; log entries 3, 10). -/
def Obligations.WrWritesTheRegister : Prop :=
  ∀ (v : Byte) (s : State), activeSeq s = .idle →
    exec (.wr .ctrl v) s = .next (respond (.ok none none) { s with
      ctrl :=
        { int := if v.getLsbD 7 then false else s.ctrl.int
          ea := v.getLsbD 6
          sta := v.getLsbD 5
          sto := v.getLsbD 4
          wc := s.ctrl.wc
          en := v.getLsbD 2
          ie := v.getLsbD 0 }
      irqPend := if v.getLsbD 7 then false else s.irqPend
      phase := if v.getLsbD 2 = false ∧ s.cfg.engine = .nominal then .idle else s.phase }) ∧
    exec (.wr .data v) s = .next (respond (.ok none none) (dataWritten v s)) ∧
    exec (.wr .oaddr v) s = .next (respond (.ok none none) { s with oaddr := v }) ∧
    exec (.wr .stat v) s = .next (respond (.ok none none) { s with
      stat := { s.stat with ps := v.extractLsb' 0 2 } }) ∧
    exec (.wr .brg v) s = .next (respond (.ok none none) { s with brg := v })

/-- `SETB`, `CLRB`, `WRB` (R120, R123, R124, R125): the write of one bit of each register, nothing else
changed. The rule of a write of `DATA` that collides is general knowledge of the spec (G3; log entries 3,
10). -/
def Obligations.BitPrimitivesWriteOneBit : Prop :=
  ∀ (reg : Reg) (n : BitIx) (b : Bool) (s : State), activeSeq s = .idle →
    exec (.setb reg n) s = .next (respond (.ok none none) (bitStored reg n true s)) ∧
    exec (.clrb reg n) s = .next (respond (.ok none none) (bitStored reg n false s)) ∧
    exec (.wrb reg n b) s = .next (respond (.ok none none) (bitStored reg n b s))

/-- `GETB reg, bit` (R126): answers the bit in a byte, and changes nothing but the flow it answers. -/
def Obligations.GetbAnswersTheBit : Prop :=
  ∀ (reg : Reg) (n : BitIx) (s : State), activeSeq s = .idle →
    exec (.getb reg n) s = .next (respond (.ok none (some
      (if (readReg reg s).getLsbD n.toNat then 0x01#8 else 0x00#8))) s) ∧
    (readReg .ctrl s).getLsbD 1 = false ∧ (readReg .stat s).getLsbD 2 = false

/-- R66: reads have no side effect. After an `RD` or a `GETB` of any register every register reads as before
and all state of the block is as before; a second read answers the same. -/
def Obligations.ReadsHaveNoSideEffect : Prop :=
  ∀ (i : Instr) (s : State), (∃ reg a, i = .rd reg a) ∨ (∃ reg n, i = .getb reg n) →
    activeSeq s = .idle →
    ∃ s', exec i s = .next s' ∧ (∀ reg, readReg reg s' = readReg reg s) ∧ s'.irqPend = s.irqPend ∧
      s'.cb = s.cb ∧ s'.inHandler = s.inHandler ∧ s'.seqMain = s.seqMain ∧ s'.seqHnd = s.seqHnd ∧
      s'.phase = s.phase ∧ s'.draws = s.draws ∧
      ∃ s'', exec i s' = .next s'' ∧ (activeFlow s'').resp = (activeFlow s').resp

/-- R65: a bit primitive on `CTRL` bits 6 to 0 leaves every other bit of `CTRL` as it was, the completion flag
in particular, and leaves the latch. -/
def Obligations.BitPrimitivesAreBitAtomic : Prop :=
  ∀ (i : Instr) (n : BitIx) (s : State), n ≠ 7#3 →
    (i = .setb .ctrl n ∨ i = .clrb .ctrl n ∨ ∃ b, i = .wrb .ctrl n b) → activeSeq s = .idle →
    ∃ s', exec i s = .next s' ∧ s'.ctrl.int = s.ctrl.int ∧ s'.irqPend = s.irqPend ∧
      ∀ j, j ≠ n.toNat → (readReg .ctrl s').getLsbD j = (readReg .ctrl s).getLsbD j

/-- R27, R31: a write of `DATA` by any of the four primitives sets or clears `WC` by the value of `INT`; with
`INT = 1` the byte lands; with `INT = 0` `DATA` holds a free value (log entry 3). Host writes to `CTRL` bit 3
are ignored. The rule of `WC` is general knowledge of the spec (G3; log entry 10). -/
def Obligations.WriteCollision : Prop :=
  ∀ (i : Instr) (v : Byte) (n : BitIx) (b : Bool) (s : State), activeSeq s = .idle →
    ((i = .wr .data v ∨ i = .setb .data n ∨ i = .clrb .data n ∨ i = .wrb .data n b) →
      ∃ s', exec i s = .next s' ∧ s'.ctrl.wc = !s.ctrl.int ∧ s'.ctrl.int = s.ctrl.int ∧
        (s.ctrl.int = false → s'.data = Config.freeByte s.draws) ∧
        (s.ctrl.int = true →
          (i = .wr .data v → s'.data = v) ∧ (i = .setb .data n → s'.data = byteWithBit s.data n true) ∧
          (i = .clrb .data n → s'.data = byteWithBit s.data n false) ∧
          (i = .wrb .data n b → s'.data = byteWithBit s.data n b))) ∧
    ((i = .wr .ctrl v ∨ i = .setb .ctrl 3#3 ∨ i = .clrb .ctrl 3#3 ∨ i = .wrb .ctrl 3#3 b) →
      ∃ s', exec i s = .next s' ∧ s'.ctrl.wc = s.ctrl.wc)

/-! ## The decoder and the clock -/

/-- R165 to R172: seven decoders are the closed tables of their rules on the masked code, on every register
value, with the operation's generic error for every other code. The generic error of `MTX` is `MSEND_ERR`,
by default data-error. A receive's byte goes with its two success statuses only (R171). -/
def Obligations.DecodersAreTheSourcesTables : Prop :=
  (∀ (cfg : Config) (raw : Byte), let c := raw &&& 0xF8#8
    (decodeStatus .start cfg raw = if c = 0x08#8 then .startSent else .startError) ∧
    (decodeStatus .rstart cfg raw = if c = 0x10#8 then .repStartSent else .repStartError) ∧
    (decodeStatus .slaw cfg raw = if c = 0x18#8 then .ackReceived else if c = 0x20#8 then .nackReceived
      else if c = 0x38#8 then .arbitrationLost else .addressError) ∧
    (decodeStatus .slar cfg raw = if c = 0x40#8 then .ackReceived else if c = 0x48#8 then .nackReceived
      else if c = 0x38#8 then .arbitrationLost else .addressError) ∧
    (decodeStatus .mtx cfg raw = if c = 0x28#8 then .ackReceived else if c = 0x30#8 then .nackReceived
      else if c = 0x38#8 then .arbitrationLost
      else match cfg.msendErr with | .dataError => .dataError | .addressError => .addressError) ∧
    (decodeStatus .mrx cfg raw = if c = 0x50#8 then .ackSent else if c = 0x58#8 then .nackSent
      else if c = 0x38#8 then .arbitrationLost else .dataError) ∧
    (receiveSuccess (decodeStatus .mrx cfg raw) = decide (c = 0x50#8 ∨ c = 0x58#8)) ∧
    (decodeStatus .swait cfg raw = if c = 0x60#8 ∨ c = 0x68#8 ∨ c = 0x70#8 ∨ c = 0x78#8 then .ackSent
      else .addressError)) ∧
  State.reset.cfg.msendErr = .dataError

/-- R173, R174: the decoders of `SRX` and `STX`. Which of their codes mean ack and which nack is general
knowledge of the spec (G2, log entry 11). -/
def Obligations.ResponderDataDecoders : Prop :=
  ∀ (cfg : Config) (raw : Byte), let c := raw &&& 0xF8#8
    (decodeStatus .srx cfg raw = if c = 0x80#8 ∨ c = 0x90#8 then .ackSent
      else if c = 0x88#8 ∨ c = 0x98#8 then .nackSent else .dataError) ∧
    (receiveSuccess (decodeStatus .srx cfg raw) =
      decide (c = 0x80#8 ∨ c = 0x90#8 ∨ c = 0x88#8 ∨ c = 0x98#8)) ∧
    (decodeStatus .stx cfg raw = if c = 0xB8#8 ∨ c = 0xC8#8 then .ackReceived
      else if c = 0xC0#8 then .nackReceived else .dataError)

/-- R175: the low three bits of the status register never reach a result, and each operation reports only
members of its own set. -/
def Obligations.DecodersIgnoreTheLowBits : Prop :=
  ∀ (d : StatusOp) (cfg : Config) (raw low : Byte), low &&& 0xF8#8 = 0#8 →
    decodeStatus d cfg (raw ||| low) = decodeStatus d cfg raw ∧
    (match d with
      | .start => decodeStatus d cfg raw ∈ [Ts.startSent, .startError]
      | .rstart => decodeStatus d cfg raw ∈ [Ts.repStartSent, .repStartError]
      | .slaw | .slar => decodeStatus d cfg raw ∈ [Ts.ackReceived, .nackReceived, .arbitrationLost, .addressError]
      | .mtx => decodeStatus d cfg raw ∈
          [Ts.ackReceived, .nackReceived, .arbitrationLost, msendErrStatus cfg.msendErr]
      | .mrx => decodeStatus d cfg raw ∈ [Ts.ackSent, .nackSent, .arbitrationLost, .dataError]
      | .swait => decodeStatus d cfg raw ∈ [Ts.ackSent, .addressError]
      | .srx => decodeStatus d cfg raw ∈ [Ts.ackSent, .nackSent, .dataError]
      | .stx => decodeStatus d cfg raw ∈ [Ts.ackReceived, .nackReceived, .dataError])

/-- R260: the bus clock formula; R94: the pattern of each multiplier. The two worked values, and that the
factor `4^PS` of a pattern is its multiplier, the spec marks as derived; that the clock is an exact quotient
over the rationals is the model's (DEDUCED, log entry 21). -/
def Obligations.BusClockFormula : Prop :=
  (∀ (f : Rat) (s : State), busClock f s = f / (16 + 2 * (s.brg.toNat : Rat) * 4 ^ s.stat.ps.toNat)) ∧
  busClock 8000000 { State.reset with brg := 32#8, stat := ⟨0#5, 0b00#2⟩ } = 100000 ∧
  busClock 8000000 { State.reset with brg := 10#8, stat := ⟨0#5, 0b00#2⟩ } = 8000000 / 36 ∧
  prescalerPattern .by1 = 0b00#2 ∧ prescalerPattern .by4 = 0b01#2 ∧ prescalerPattern .by16 = 0b10#2 ∧
  prescalerPattern .by64 = 0b11#2 ∧
  prescalerMultiplier .by1 = 1 ∧ prescalerMultiplier .by4 = 4 ∧ prescalerMultiplier .by16 = 16 ∧
  prescalerMultiplier .by64 = 64 ∧
  (∀ p : Prescaler, 4 ^ (prescalerPattern p).toNat = prescalerMultiplier p)

/-- R76: over the mock register bank, where every write simply lands, each of the nine operations with a
status output answers the decode of the raw status byte, whatever its low bits, with the data cell's byte on
a receive's success; `SWAIT` does so where the test has set the flag and waits where it has not. The bank
after each is spelled out, and a contract violation performs no write. That a clear-flag step lands, so that
its `WAIT` passes, is the model's choice (log entry 25); the codes of `SRX` and `STX` are log entry 11's. -/
def Obligations.MockBankDecodesTheStatus : Prop :=
  ∀ (cfg : Config) (m : MockBank) (dv : Bool) (a : Byte),
    let c : Byte := m.stat &&& 0xF8#8
    let begun : MockBank := { m with ctrl := (m.ctrl &&& 0xEF#8) ||| 0xA0#8 }
    let moved : Byte := (m.ctrl &&& 0xCF#8) ||| 0x80#8
    let received : MockBank := { m with ctrl :=
      if a = 0x01#8 then moved ||| 0x40#8 else moved &&& 0xBF#8 }
    let listening : MockBank := { m with ctrl := (m.ctrl &&& 0xCF#8) ||| 0x40#8 }
    mockOperation cfg (.start true dv a) m =
      .done (.ok (some (if c = 0x08#8 then .startSent else .startError)) none) begun ∧
    mockOperation cfg (.rstart true dv a) m =
      .done (.ok (some (if c = 0x10#8 then .repStartSent else .repStartError)) none) begun ∧
    mockOperation cfg (.slaw true dv a) m =
      .done (.ok (some (if c = 0x18#8 then .ackReceived else if c = 0x20#8 then .nackReceived
        else if c = 0x38#8 then .arbitrationLost else .addressError)) none)
        { m with data := a.extractLsb' 0 7 ++ 0#1, ctrl := moved } ∧
    mockOperation cfg (.slar true dv a) m =
      .done (.ok (some (if c = 0x40#8 then .ackReceived else if c = 0x48#8 then .nackReceived
        else if c = 0x38#8 then .arbitrationLost else .addressError)) none)
        { m with data := a.extractLsb' 0 7 ++ 1#1, ctrl := moved } ∧
    mockOperation cfg (.mtx true dv a) m =
      .done (.ok (some (if c = 0x28#8 then .ackReceived else if c = 0x30#8 then .nackReceived
        else if c = 0x38#8 then .arbitrationLost
        else if cfg.msendErr = .dataError then .dataError else .addressError)) none)
        { m with data := a, ctrl := moved } ∧
    mockOperation cfg (.stx true dv a) m =
      .done (.ok (some (if c = 0xB8#8 ∨ c = 0xC8#8 then .ackReceived else if c = 0xC0#8 then .nackReceived
        else .dataError)) none)
        { m with data := a, ctrl := moved } ∧
    (a = 0x00#8 ∨ a = 0x01#8 →
      mockOperation cfg (.mrx true true a) m = .done
        (if c = 0x50#8 then .ok (some .ackSent) (some m.data)
         else if c = 0x58#8 then .ok (some .nackSent) (some m.data)
         else if c = 0x38#8 then .ok (some .arbitrationLost) none
         else .ok (some .dataError) none) received ∧
      mockOperation cfg (.srx true true a) m = .done
        (if c = 0x80#8 ∨ c = 0x90#8 then .ok (some .ackSent) (some m.data)
         else if c = 0x88#8 ∨ c = 0x98#8 then .ok (some .nackSent) (some m.data)
         else .ok (some .dataError) none) received) ∧
    (m.ctrl.getLsbD 7 = true → mockOperation cfg (.swait true dv a) m =
      .done (.ok (some (if c = 0x60#8 ∨ c = 0x68#8 ∨ c = 0x70#8 ∨ c = 0x78#8 then .ackSent
        else .addressError)) none) listening) ∧
    (m.ctrl.getLsbD 7 = false → mockOperation cfg (.swait true dv a) m = .waiting listening) ∧
    (∀ i : Instr, portOf i = .command → violates i → mockOperation cfg i m = .done .invalidCall m)
end

