-- ==== Sys2Proof/Laws/State.lean ====
section
/-! SUPPORT. One lemma per field per named update of State, so that no later proof unfolds a record update. -/

namespace Sys2Proof.Machine

/-! ## `setActive` -/

@[simp] theorem setActive_ctrl (q : Seq) (s : State) : (setActive q s).ctrl = s.ctrl := by
  unfold setActive; split <;> rfl
@[simp] theorem setActive_data (q : Seq) (s : State) : (setActive q s).data = s.data := by
  unfold setActive; split <;> rfl
@[simp] theorem setActive_oaddr (q : Seq) (s : State) : (setActive q s).oaddr = s.oaddr := by
  unfold setActive; split <;> rfl
@[simp] theorem setActive_stat (q : Seq) (s : State) : (setActive q s).stat = s.stat := by
  unfold setActive; split <;> rfl
@[simp] theorem setActive_brg (q : Seq) (s : State) : (setActive q s).brg = s.brg := by
  unfold setActive; split <;> rfl
@[simp] theorem setActive_cb (q : Seq) (s : State) : (setActive q s).cb = s.cb := by
  unfold setActive; split <;> rfl
@[simp] theorem setActive_irqPend (q : Seq) (s : State) : (setActive q s).irqPend = s.irqPend := by
  unfold setActive; split <;> rfl
@[simp] theorem setActive_inHandler (q : Seq) (s : State) : (setActive q s).inHandler = s.inHandler := by
  unfold setActive; split <;> rfl
@[simp] theorem setActive_seqMain (q : Seq) (s : State) : (setActive q s).seqMain = if s.inHandler then s.seqMain else q := by
  unfold setActive; split <;> rfl
@[simp] theorem setActive_seqHnd (q : Seq) (s : State) : (setActive q s).seqHnd = if s.inHandler then q else s.seqHnd := by
  unfold setActive; split <;> rfl
@[simp] theorem setActive_phase (q : Seq) (s : State) : (setActive q s).phase = s.phase := by
  unfold setActive; split <;> rfl
@[simp] theorem setActive_cfg (q : Seq) (s : State) : (setActive q s).cfg = s.cfg := by
  unfold setActive; split <;> rfl
@[simp] theorem setActive_hostMain (q : Seq) (s : State) : (setActive q s).hostMain = s.hostMain := by
  unfold setActive; split <;> rfl
@[simp] theorem setActive_hostHnd (q : Seq) (s : State) : (setActive q s).hostHnd = s.hostHnd := by
  unfold setActive; split <;> rfl
@[simp] theorem setActive_sched (q : Seq) (s : State) : (setActive q s).sched = s.sched := by
  unfold setActive; split <;> rfl
@[simp] theorem setActive_tick (q : Seq) (s : State) : (setActive q s).tick = s.tick := by
  unfold setActive; split <;> rfl
@[simp] theorem setActive_draws (q : Seq) (s : State) : (setActive q s).draws = s.draws := by
  unfold setActive; split <;> rfl

/-! ## `setFlow` -/

@[simp] theorem setFlow_ctrl (f : Flow) (s : State) : (setFlow f s).ctrl = s.ctrl := by
  unfold setFlow; split <;> rfl
@[simp] theorem setFlow_data (f : Flow) (s : State) : (setFlow f s).data = s.data := by
  unfold setFlow; split <;> rfl
@[simp] theorem setFlow_oaddr (f : Flow) (s : State) : (setFlow f s).oaddr = s.oaddr := by
  unfold setFlow; split <;> rfl
@[simp] theorem setFlow_stat (f : Flow) (s : State) : (setFlow f s).stat = s.stat := by
  unfold setFlow; split <;> rfl
@[simp] theorem setFlow_brg (f : Flow) (s : State) : (setFlow f s).brg = s.brg := by
  unfold setFlow; split <;> rfl
@[simp] theorem setFlow_cb (f : Flow) (s : State) : (setFlow f s).cb = s.cb := by
  unfold setFlow; split <;> rfl
@[simp] theorem setFlow_irqPend (f : Flow) (s : State) : (setFlow f s).irqPend = s.irqPend := by
  unfold setFlow; split <;> rfl
@[simp] theorem setFlow_inHandler (f : Flow) (s : State) : (setFlow f s).inHandler = s.inHandler := by
  unfold setFlow; split <;> rfl
@[simp] theorem setFlow_seqMain (f : Flow) (s : State) : (setFlow f s).seqMain = s.seqMain := by
  unfold setFlow; split <;> rfl
@[simp] theorem setFlow_seqHnd (f : Flow) (s : State) : (setFlow f s).seqHnd = s.seqHnd := by
  unfold setFlow; split <;> rfl
@[simp] theorem setFlow_phase (f : Flow) (s : State) : (setFlow f s).phase = s.phase := by
  unfold setFlow; split <;> rfl
@[simp] theorem setFlow_cfg (f : Flow) (s : State) : (setFlow f s).cfg = s.cfg := by
  unfold setFlow; split <;> rfl
@[simp] theorem setFlow_hostMain (f : Flow) (s : State) : (setFlow f s).hostMain = if s.inHandler then s.hostMain else f := by
  unfold setFlow; split <;> rfl
@[simp] theorem setFlow_hostHnd (f : Flow) (s : State) : (setFlow f s).hostHnd = if s.inHandler then f else s.hostHnd := by
  unfold setFlow; split <;> rfl
@[simp] theorem setFlow_sched (f : Flow) (s : State) : (setFlow f s).sched = s.sched := by
  unfold setFlow; split <;> rfl
@[simp] theorem setFlow_tick (f : Flow) (s : State) : (setFlow f s).tick = s.tick := by
  unfold setFlow; split <;> rfl
@[simp] theorem setFlow_draws (f : Flow) (s : State) : (setFlow f s).draws = s.draws := by
  unfold setFlow; split <;> rfl

/-! ## `clearFlag` -/

@[simp] theorem clearFlag_ctrl (s : State) : (clearFlag s).ctrl = { s.ctrl with int := false } := rfl
@[simp] theorem clearFlag_data (s : State) : (clearFlag s).data = s.data := rfl
@[simp] theorem clearFlag_oaddr (s : State) : (clearFlag s).oaddr = s.oaddr := rfl
@[simp] theorem clearFlag_stat (s : State) : (clearFlag s).stat = s.stat := rfl
@[simp] theorem clearFlag_brg (s : State) : (clearFlag s).brg = s.brg := rfl
@[simp] theorem clearFlag_cb (s : State) : (clearFlag s).cb = s.cb := rfl
@[simp] theorem clearFlag_irqPend (s : State) : (clearFlag s).irqPend = false := rfl
@[simp] theorem clearFlag_inHandler (s : State) : (clearFlag s).inHandler = s.inHandler := rfl
@[simp] theorem clearFlag_seqMain (s : State) : (clearFlag s).seqMain = s.seqMain := rfl
@[simp] theorem clearFlag_seqHnd (s : State) : (clearFlag s).seqHnd = s.seqHnd := rfl
@[simp] theorem clearFlag_phase (s : State) : (clearFlag s).phase = s.phase := rfl
@[simp] theorem clearFlag_cfg (s : State) : (clearFlag s).cfg = s.cfg := rfl
@[simp] theorem clearFlag_hostMain (s : State) : (clearFlag s).hostMain = s.hostMain := rfl
@[simp] theorem clearFlag_hostHnd (s : State) : (clearFlag s).hostHnd = s.hostHnd := rfl
@[simp] theorem clearFlag_sched (s : State) : (clearFlag s).sched = s.sched := rfl
@[simp] theorem clearFlag_tick (s : State) : (clearFlag s).tick = s.tick := rfl
@[simp] theorem clearFlag_draws (s : State) : (clearFlag s).draws = s.draws := rfl

/-! ## `raiseFlag` -/

@[simp] theorem raiseFlag_ctrl (s : State) : (raiseFlag s).ctrl = { s.ctrl with int := true } := rfl
@[simp] theorem raiseFlag_data (s : State) : (raiseFlag s).data = s.data := rfl
@[simp] theorem raiseFlag_oaddr (s : State) : (raiseFlag s).oaddr = s.oaddr := rfl
@[simp] theorem raiseFlag_stat (s : State) : (raiseFlag s).stat = s.stat := rfl
@[simp] theorem raiseFlag_brg (s : State) : (raiseFlag s).brg = s.brg := rfl
@[simp] theorem raiseFlag_cb (s : State) : (raiseFlag s).cb = s.cb := rfl
@[simp] theorem raiseFlag_irqPend (s : State) : (raiseFlag s).irqPend = true := rfl
@[simp] theorem raiseFlag_inHandler (s : State) : (raiseFlag s).inHandler = s.inHandler := rfl
@[simp] theorem raiseFlag_seqMain (s : State) : (raiseFlag s).seqMain = s.seqMain := rfl
@[simp] theorem raiseFlag_seqHnd (s : State) : (raiseFlag s).seqHnd = s.seqHnd := rfl
@[simp] theorem raiseFlag_phase (s : State) : (raiseFlag s).phase = s.phase := rfl
@[simp] theorem raiseFlag_cfg (s : State) : (raiseFlag s).cfg = s.cfg := rfl
@[simp] theorem raiseFlag_hostMain (s : State) : (raiseFlag s).hostMain = s.hostMain := rfl
@[simp] theorem raiseFlag_hostHnd (s : State) : (raiseFlag s).hostHnd = s.hostHnd := rfl
@[simp] theorem raiseFlag_sched (s : State) : (raiseFlag s).sched = s.sched := rfl
@[simp] theorem raiseFlag_tick (s : State) : (raiseFlag s).tick = s.tick := rfl
@[simp] theorem raiseFlag_draws (s : State) : (raiseFlag s).draws = s.draws := rfl

/-! ## `writeEnable` -/

@[simp] theorem writeEnable_ctrl (b : Bool) (s : State) : (writeEnable b s).ctrl = { s.ctrl with en := b } := rfl
@[simp] theorem writeEnable_data (b : Bool) (s : State) : (writeEnable b s).data = s.data := rfl
@[simp] theorem writeEnable_oaddr (b : Bool) (s : State) : (writeEnable b s).oaddr = s.oaddr := rfl
@[simp] theorem writeEnable_stat (b : Bool) (s : State) : (writeEnable b s).stat = s.stat := rfl
@[simp] theorem writeEnable_brg (b : Bool) (s : State) : (writeEnable b s).brg = s.brg := rfl
@[simp] theorem writeEnable_cb (b : Bool) (s : State) : (writeEnable b s).cb = s.cb := rfl
@[simp] theorem writeEnable_irqPend (b : Bool) (s : State) : (writeEnable b s).irqPend = s.irqPend := rfl
@[simp] theorem writeEnable_inHandler (b : Bool) (s : State) : (writeEnable b s).inHandler = s.inHandler := rfl
@[simp] theorem writeEnable_seqMain (b : Bool) (s : State) : (writeEnable b s).seqMain = s.seqMain := rfl
@[simp] theorem writeEnable_seqHnd (b : Bool) (s : State) : (writeEnable b s).seqHnd = s.seqHnd := rfl
@[simp] theorem writeEnable_phase (b : Bool) (s : State) : (writeEnable b s).phase = if b = false ∧ s.cfg.engine = .nominal then .idle else s.phase := rfl
@[simp] theorem writeEnable_cfg (b : Bool) (s : State) : (writeEnable b s).cfg = s.cfg := rfl
@[simp] theorem writeEnable_hostMain (b : Bool) (s : State) : (writeEnable b s).hostMain = s.hostMain := rfl
@[simp] theorem writeEnable_hostHnd (b : Bool) (s : State) : (writeEnable b s).hostHnd = s.hostHnd := rfl
@[simp] theorem writeEnable_sched (b : Bool) (s : State) : (writeEnable b s).sched = s.sched := rfl
@[simp] theorem writeEnable_tick (b : Bool) (s : State) : (writeEnable b s).tick = s.tick := rfl
@[simp] theorem writeEnable_draws (b : Bool) (s : State) : (writeEnable b s).draws = s.draws := rfl

/-! ## `takeChoice` -/

@[simp] theorem takeChoice_ctrl (s : State) : (takeChoice s).ctrl = s.ctrl := rfl
@[simp] theorem takeChoice_data (s : State) : (takeChoice s).data = s.data := rfl
@[simp] theorem takeChoice_oaddr (s : State) : (takeChoice s).oaddr = s.oaddr := rfl
@[simp] theorem takeChoice_stat (s : State) : (takeChoice s).stat = s.stat := rfl
@[simp] theorem takeChoice_brg (s : State) : (takeChoice s).brg = s.brg := rfl
@[simp] theorem takeChoice_cb (s : State) : (takeChoice s).cb = s.cb := rfl
@[simp] theorem takeChoice_irqPend (s : State) : (takeChoice s).irqPend = s.irqPend := rfl
@[simp] theorem takeChoice_inHandler (s : State) : (takeChoice s).inHandler = s.inHandler := rfl
@[simp] theorem takeChoice_seqMain (s : State) : (takeChoice s).seqMain = s.seqMain := rfl
@[simp] theorem takeChoice_seqHnd (s : State) : (takeChoice s).seqHnd = s.seqHnd := rfl
@[simp] theorem takeChoice_phase (s : State) : (takeChoice s).phase = s.phase := rfl
@[simp] theorem takeChoice_cfg (s : State) : (takeChoice s).cfg = s.cfg := rfl
@[simp] theorem takeChoice_hostMain (s : State) : (takeChoice s).hostMain = s.hostMain := rfl
@[simp] theorem takeChoice_hostHnd (s : State) : (takeChoice s).hostHnd = s.hostHnd := rfl
@[simp] theorem takeChoice_sched (s : State) : (takeChoice s).sched = s.sched.tail := rfl
@[simp] theorem takeChoice_tick (s : State) : (takeChoice s).tick = s.tick + 1 := rfl
@[simp] theorem takeChoice_draws (s : State) : (takeChoice s).draws = s.draws := rfl

/-! ## `handlerReturn` -/

@[simp] theorem handlerReturn_ctrl (s : State) : (handlerReturn s).ctrl = s.ctrl := rfl
@[simp] theorem handlerReturn_data (s : State) : (handlerReturn s).data = s.data := rfl
@[simp] theorem handlerReturn_oaddr (s : State) : (handlerReturn s).oaddr = s.oaddr := rfl
@[simp] theorem handlerReturn_stat (s : State) : (handlerReturn s).stat = s.stat := rfl
@[simp] theorem handlerReturn_brg (s : State) : (handlerReturn s).brg = s.brg := rfl
@[simp] theorem handlerReturn_cb (s : State) : (handlerReturn s).cb = s.cb := rfl
@[simp] theorem handlerReturn_irqPend (s : State) : (handlerReturn s).irqPend = s.irqPend := rfl
@[simp] theorem handlerReturn_inHandler (s : State) : (handlerReturn s).inHandler = false := rfl
@[simp] theorem handlerReturn_seqMain (s : State) : (handlerReturn s).seqMain = s.seqMain := rfl
@[simp] theorem handlerReturn_seqHnd (s : State) : (handlerReturn s).seqHnd = .idle := rfl
@[simp] theorem handlerReturn_phase (s : State) : (handlerReturn s).phase = s.phase := rfl
@[simp] theorem handlerReturn_cfg (s : State) : (handlerReturn s).cfg = s.cfg := rfl
@[simp] theorem handlerReturn_hostMain (s : State) : (handlerReturn s).hostMain = s.hostMain := rfl
@[simp] theorem handlerReturn_hostHnd (s : State) : (handlerReturn s).hostHnd = s.hostHnd := rfl
@[simp] theorem handlerReturn_sched (s : State) : (handlerReturn s).sched = s.sched := rfl
@[simp] theorem handlerReturn_tick (s : State) : (handlerReturn s).tick = s.tick := rfl
@[simp] theorem handlerReturn_draws (s : State) : (handlerReturn s).draws = s.draws := rfl

/-! ## `dataWrite` -/

@[simp] theorem dataWrite_ctrl (v : Byte) (s : State) : (dataWrite v s).ctrl = { s.ctrl with wc := !s.ctrl.int } := by
  unfold dataWrite; split <;> simp_all
@[simp] theorem dataWrite_data (v : Byte) (s : State) : (dataWrite v s).data = if s.ctrl.int then v else Config.freeByte s.draws := by
  unfold dataWrite; split <;> simp_all
@[simp] theorem dataWrite_oaddr (v : Byte) (s : State) : (dataWrite v s).oaddr = s.oaddr := by
  unfold dataWrite; split <;> simp_all
@[simp] theorem dataWrite_stat (v : Byte) (s : State) : (dataWrite v s).stat = s.stat := by
  unfold dataWrite; split <;> simp_all
@[simp] theorem dataWrite_brg (v : Byte) (s : State) : (dataWrite v s).brg = s.brg := by
  unfold dataWrite; split <;> simp_all
@[simp] theorem dataWrite_cb (v : Byte) (s : State) : (dataWrite v s).cb = s.cb := by
  unfold dataWrite; split <;> simp_all
@[simp] theorem dataWrite_irqPend (v : Byte) (s : State) : (dataWrite v s).irqPend = s.irqPend := by
  unfold dataWrite; split <;> simp_all
@[simp] theorem dataWrite_inHandler (v : Byte) (s : State) : (dataWrite v s).inHandler = s.inHandler := by
  unfold dataWrite; split <;> simp_all
@[simp] theorem dataWrite_seqMain (v : Byte) (s : State) : (dataWrite v s).seqMain = s.seqMain := by
  unfold dataWrite; split <;> simp_all
@[simp] theorem dataWrite_seqHnd (v : Byte) (s : State) : (dataWrite v s).seqHnd = s.seqHnd := by
  unfold dataWrite; split <;> simp_all
@[simp] theorem dataWrite_phase (v : Byte) (s : State) : (dataWrite v s).phase = s.phase := by
  unfold dataWrite; split <;> simp_all
@[simp] theorem dataWrite_cfg (v : Byte) (s : State) : (dataWrite v s).cfg = s.cfg := by
  unfold dataWrite; split <;> simp_all
@[simp] theorem dataWrite_hostMain (v : Byte) (s : State) : (dataWrite v s).hostMain = s.hostMain := by
  unfold dataWrite; split <;> simp_all
@[simp] theorem dataWrite_hostHnd (v : Byte) (s : State) : (dataWrite v s).hostHnd = s.hostHnd := by
  unfold dataWrite; split <;> simp_all
@[simp] theorem dataWrite_sched (v : Byte) (s : State) : (dataWrite v s).sched = s.sched := by
  unfold dataWrite; split <;> simp_all
@[simp] theorem dataWrite_tick (v : Byte) (s : State) : (dataWrite v s).tick = s.tick := by
  unfold dataWrite; split <;> simp_all
@[simp] theorem dataWrite_draws (v : Byte) (s : State) : (dataWrite v s).draws = if s.ctrl.int then s.draws else s.draws + 1 := by
  unfold dataWrite; split <;> simp_all

/-! ## `goto` -/

@[simp] theorem goto_ctrl (i : Instr) (k : Nat) (t : Tmp) (s : State) : (goto i k t s).ctrl = s.ctrl := by
  simp [goto]
@[simp] theorem goto_data (i : Instr) (k : Nat) (t : Tmp) (s : State) : (goto i k t s).data = s.data := by
  simp [goto]
@[simp] theorem goto_oaddr (i : Instr) (k : Nat) (t : Tmp) (s : State) : (goto i k t s).oaddr = s.oaddr := by
  simp [goto]
@[simp] theorem goto_stat (i : Instr) (k : Nat) (t : Tmp) (s : State) : (goto i k t s).stat = s.stat := by
  simp [goto]
@[simp] theorem goto_brg (i : Instr) (k : Nat) (t : Tmp) (s : State) : (goto i k t s).brg = s.brg := by
  simp [goto]
@[simp] theorem goto_cb (i : Instr) (k : Nat) (t : Tmp) (s : State) : (goto i k t s).cb = s.cb := by
  simp [goto]
@[simp] theorem goto_irqPend (i : Instr) (k : Nat) (t : Tmp) (s : State) : (goto i k t s).irqPend = s.irqPend := by
  simp [goto]
@[simp] theorem goto_inHandler (i : Instr) (k : Nat) (t : Tmp) (s : State) : (goto i k t s).inHandler = s.inHandler := by
  simp [goto]
@[simp] theorem goto_seqMain (i : Instr) (k : Nat) (t : Tmp) (s : State) : (goto i k t s).seqMain = if s.inHandler then s.seqMain else .run i k t := by
  simp [goto]
@[simp] theorem goto_seqHnd (i : Instr) (k : Nat) (t : Tmp) (s : State) : (goto i k t s).seqHnd = if s.inHandler then .run i k t else s.seqHnd := by
  simp [goto]
@[simp] theorem goto_phase (i : Instr) (k : Nat) (t : Tmp) (s : State) : (goto i k t s).phase = s.phase := by
  simp [goto]
@[simp] theorem goto_cfg (i : Instr) (k : Nat) (t : Tmp) (s : State) : (goto i k t s).cfg = s.cfg := by
  simp [goto]
@[simp] theorem goto_hostMain (i : Instr) (k : Nat) (t : Tmp) (s : State) : (goto i k t s).hostMain = s.hostMain := by
  simp [goto]
@[simp] theorem goto_hostHnd (i : Instr) (k : Nat) (t : Tmp) (s : State) : (goto i k t s).hostHnd = s.hostHnd := by
  simp [goto]
@[simp] theorem goto_sched (i : Instr) (k : Nat) (t : Tmp) (s : State) : (goto i k t s).sched = s.sched := by
  simp [goto]
@[simp] theorem goto_tick (i : Instr) (k : Nat) (t : Tmp) (s : State) : (goto i k t s).tick = s.tick := by
  simp [goto]
@[simp] theorem goto_draws (i : Instr) (k : Nat) (t : Tmp) (s : State) : (goto i k t s).draws = s.draws := by
  simp [goto]

/-! ## `respond` -/

@[simp] theorem respond_ctrl (r : Resp) (s : State) : (respond r s).ctrl = s.ctrl := by
  simp +contextual [respond, activeFlow]
@[simp] theorem respond_data (r : Resp) (s : State) : (respond r s).data = s.data := by
  simp +contextual [respond, activeFlow]
@[simp] theorem respond_oaddr (r : Resp) (s : State) : (respond r s).oaddr = s.oaddr := by
  simp +contextual [respond, activeFlow]
@[simp] theorem respond_stat (r : Resp) (s : State) : (respond r s).stat = s.stat := by
  simp +contextual [respond, activeFlow]
@[simp] theorem respond_brg (r : Resp) (s : State) : (respond r s).brg = s.brg := by
  simp +contextual [respond, activeFlow]
@[simp] theorem respond_cb (r : Resp) (s : State) : (respond r s).cb = s.cb := by
  simp +contextual [respond, activeFlow]
@[simp] theorem respond_irqPend (r : Resp) (s : State) : (respond r s).irqPend = s.irqPend := by
  simp +contextual [respond, activeFlow]
@[simp] theorem respond_inHandler (r : Resp) (s : State) : (respond r s).inHandler = s.inHandler := by
  simp +contextual [respond, activeFlow]
@[simp] theorem respond_seqMain (r : Resp) (s : State) : (respond r s).seqMain = if s.inHandler then s.seqMain else .idle := by
  simp +contextual [respond, activeFlow]
@[simp] theorem respond_seqHnd (r : Resp) (s : State) : (respond r s).seqHnd = if s.inHandler then .idle else s.seqHnd := by
  simp +contextual [respond, activeFlow]
@[simp] theorem respond_phase (r : Resp) (s : State) : (respond r s).phase = s.phase := by
  simp +contextual [respond, activeFlow]
@[simp] theorem respond_cfg (r : Resp) (s : State) : (respond r s).cfg = s.cfg := by
  simp +contextual [respond, activeFlow]
@[simp] theorem respond_hostMain (r : Resp) (s : State) : (respond r s).hostMain = if s.inHandler then s.hostMain else s.hostMain.receive r := by
  simp +contextual [respond, activeFlow]
@[simp] theorem respond_hostHnd (r : Resp) (s : State) : (respond r s).hostHnd = if s.inHandler then s.hostHnd.receive r else s.hostHnd := by
  simp +contextual [respond, activeFlow]
@[simp] theorem respond_sched (r : Resp) (s : State) : (respond r s).sched = s.sched := by
  simp +contextual [respond, activeFlow]
@[simp] theorem respond_tick (r : Resp) (s : State) : (respond r s).tick = s.tick := by
  simp +contextual [respond, activeFlow]
@[simp] theorem respond_draws (r : Resp) (s : State) : (respond r s).draws = s.draws := by
  simp +contextual [respond, activeFlow]

/-! ## `takeWord` -/

@[simp] theorem takeWord_ctrl (s : State) : (takeWord s).ctrl = s.ctrl := by
  simp +contextual [takeWord, activeFlow]
@[simp] theorem takeWord_data (s : State) : (takeWord s).data = s.data := by
  simp +contextual [takeWord, activeFlow]
@[simp] theorem takeWord_oaddr (s : State) : (takeWord s).oaddr = s.oaddr := by
  simp +contextual [takeWord, activeFlow]
@[simp] theorem takeWord_stat (s : State) : (takeWord s).stat = s.stat := by
  simp +contextual [takeWord, activeFlow]
@[simp] theorem takeWord_brg (s : State) : (takeWord s).brg = s.brg := by
  simp +contextual [takeWord, activeFlow]
@[simp] theorem takeWord_cb (s : State) : (takeWord s).cb = s.cb := by
  simp +contextual [takeWord, activeFlow]
@[simp] theorem takeWord_irqPend (s : State) : (takeWord s).irqPend = s.irqPend := by
  simp +contextual [takeWord, activeFlow]
@[simp] theorem takeWord_inHandler (s : State) : (takeWord s).inHandler = s.inHandler := by
  simp +contextual [takeWord, activeFlow]
@[simp] theorem takeWord_seqMain (s : State) : (takeWord s).seqMain = s.seqMain := by
  simp +contextual [takeWord, activeFlow]
@[simp] theorem takeWord_seqHnd (s : State) : (takeWord s).seqHnd = s.seqHnd := by
  simp +contextual [takeWord, activeFlow]
@[simp] theorem takeWord_phase (s : State) : (takeWord s).phase = s.phase := by
  simp +contextual [takeWord, activeFlow]
@[simp] theorem takeWord_cfg (s : State) : (takeWord s).cfg = s.cfg := by
  simp +contextual [takeWord, activeFlow]
@[simp] theorem takeWord_hostMain (s : State) : (takeWord s).hostMain = if s.inHandler then s.hostMain else { s.hostMain with prog := s.hostMain.prog.tail } := by
  simp +contextual [takeWord, activeFlow]
@[simp] theorem takeWord_hostHnd (s : State) : (takeWord s).hostHnd = if s.inHandler then { s.hostHnd with prog := s.hostHnd.prog.tail } else s.hostHnd := by
  simp +contextual [takeWord, activeFlow]
@[simp] theorem takeWord_sched (s : State) : (takeWord s).sched = s.sched := by
  simp +contextual [takeWord, activeFlow]
@[simp] theorem takeWord_tick (s : State) : (takeWord s).tick = s.tick := by
  simp +contextual [takeWord, activeFlow]
@[simp] theorem takeWord_draws (s : State) : (takeWord s).draws = s.draws := by
  simp +contextual [takeWord, activeFlow]

/-! ## The active context -/

@[simp] theorem activeSeq_setActive (q : Seq) (s : State) : activeSeq (setActive q s) = q := by
  unfold activeSeq setActive; split <;> simp_all

@[simp] theorem activeSeq_goto (i : Instr) (k : Nat) (t : Tmp) (s : State) :
    activeSeq (goto i k t s) = .run i k t := activeSeq_setActive _ _

@[simp] theorem activeSeq_takeChoice (s : State) : activeSeq (takeChoice s) = activeSeq s := rfl

@[simp] theorem activeSeq_takeWord (s : State) : activeSeq (takeWord s) = activeSeq s := by
  simp [activeSeq]

@[simp] theorem activeSeq_respond (r : Resp) (s : State) : activeSeq (respond r s) = .idle := by
  unfold activeSeq; simp; split <;> rfl

@[simp] theorem activeFlow_setFlow (f : Flow) (s : State) : activeFlow (setFlow f s) = f := by
  unfold activeFlow setFlow; split <;> simp_all

@[simp] theorem activeFlow_respond (r : Resp) (s : State) :
    activeFlow (respond r s) = (activeFlow s).receive r := by
  unfold activeFlow; simp; split <;> rfl

end Sys2Proof.Machine
end

