-- ==== Sys2Proof/Laws/Ops.lean ====
section
/-! SUPPORT. What each shared operation over the register space can do, said once (R120 to R126). -/

namespace Sys2Proof.Machine

/-! ## Bits -/

theorem getLsbD_withBit {w : Nat} (v : BitVec w) (i j : Nat) (b : Bool) (hi : i < w) :
    (withBit v i b).getLsbD j = if j = i then b else v.getLsbD j := by
  unfold withBit
  cases b <;> by_cases h : j = i <;> by_cases hj : j < w <;>
    simp_all [BitVec.getLsbD_of_ge]

theorem withBit_self {w : Nat} (v : BitVec w) (i : Nat) (hi : i < w) :
    withBit v i (v.getLsbD i) = v := by
  apply BitVec.eq_of_getLsbD_eq
  intro j _
  rw [getLsbD_withBit _ _ _ _ hi]
  split <;> simp_all

/-- Writing all eight bits of a byte, from 7 down to 0, leaves the byte written. -/
theorem withBit_all (old v : Byte) :
    withBit (withBit (withBit (withBit (withBit (withBit (withBit (withBit old
      7 (v.getLsbD 7)) 6 (v.getLsbD 6)) 5 (v.getLsbD 5)) 4 (v.getLsbD 4)) 3 (v.getLsbD 3))
      2 (v.getLsbD 2)) 1 (v.getLsbD 1)) 0 (v.getLsbD 0) = v := by
  apply BitVec.eq_of_getLsbD_eq
  intro j hj
  simp only [getLsbD_withBit _ _ _ _ (show (7 : Nat) < 8 by decide),
    getLsbD_withBit _ _ _ _ (show (6 : Nat) < 8 by decide),
    getLsbD_withBit _ _ _ _ (show (5 : Nat) < 8 by decide),
    getLsbD_withBit _ _ _ _ (show (4 : Nat) < 8 by decide),
    getLsbD_withBit _ _ _ _ (show (3 : Nat) < 8 by decide),
    getLsbD_withBit _ _ _ _ (show (2 : Nat) < 8 by decide),
    getLsbD_withBit _ _ _ _ (show (1 : Nat) < 8 by decide),
    getLsbD_withBit _ _ _ _ (show (0 : Nat) < 8 by decide)]
  interval_cases j <;> simp

/-- Writing both bits of the prescaler select leaves the pattern written. -/
theorem withBit_both (old v : BitVec 2) :
    withBit (withBit old 0 (v.getLsbD 0)) 1 (v.getLsbD 1) = v := by
  revert old v; decide

/-! ## Single bits -/

@[simp] theorem storeCtrlBit_7_true (s : State) : storeCtrlBit 7#3 true s = clearFlag s := rfl
@[simp] theorem storeCtrlBit_7_false (s : State) : storeCtrlBit 7#3 false s = s := rfl
@[simp] theorem storeCtrlBit_6 (b : Bool) (s : State) :
    storeCtrlBit 6#3 b s = { s with ctrl := { s.ctrl with ea := b } } := rfl
@[simp] theorem storeCtrlBit_5 (b : Bool) (s : State) :
    storeCtrlBit 5#3 b s = { s with ctrl := { s.ctrl with sta := b } } := rfl
@[simp] theorem storeCtrlBit_4 (b : Bool) (s : State) :
    storeCtrlBit 4#3 b s = { s with ctrl := { s.ctrl with sto := b } } := rfl
@[simp] theorem storeCtrlBit_3 (b : Bool) (s : State) : storeCtrlBit 3#3 b s = s := rfl
@[simp] theorem storeCtrlBit_2 (b : Bool) (s : State) : storeCtrlBit 2#3 b s = writeEnable b s := rfl
@[simp] theorem storeCtrlBit_1 (b : Bool) (s : State) : storeCtrlBit 1#3 b s = s := rfl
@[simp] theorem storeCtrlBit_0 (b : Bool) (s : State) :
    storeCtrlBit 0#3 b s = { s with ctrl := { s.ctrl with ie := b } } := rfl

/-- A bit number is one of eight. -/
theorem bitIx_cases (i : BitIx) :
    i = 0 ∨ i = 1 ∨ i = 2 ∨ i = 3 ∨ i = 4 ∨ i = 5 ∨ i = 6 ∨ i = 7 := by
  revert i; decide

/-- Everything a write of one `CTRL` bit can do (R120). -/
theorem storeCtrlBit_cases (i : BitIx) (b : Bool) (s : State) :
    (i = 7 ∧ b = true ∧ storeCtrlBit i b s = clearFlag s) ∨
    ((i = 1 ∨ i = 3 ∨ (i = 7 ∧ b = false)) ∧ storeCtrlBit i b s = s) ∨
    (i = 6 ∧ storeCtrlBit i b s = { s with ctrl := { s.ctrl with ea := b } }) ∨
    (i = 5 ∧ storeCtrlBit i b s = { s with ctrl := { s.ctrl with sta := b } }) ∨
    (i = 4 ∧ storeCtrlBit i b s = { s with ctrl := { s.ctrl with sto := b } }) ∨
    (i = 2 ∧ storeCtrlBit i b s = writeEnable b s) ∨
    (i = 0 ∧ storeCtrlBit i b s = { s with ctrl := { s.ctrl with ie := b } }) := by
  rcases bitIx_cases i with rfl | rfl | rfl | rfl | rfl | rfl | rfl | rfl <;> cases b <;> simp

/-! ## What every register write leaves alone -/

/-- Two states that agree on everything but the registers, the interrupt latch, the phase and the draw
counter. -/
structure SameOutside (s s' : State) : Prop where
  sc5 : s'.stat.sc5 = s.stat.sc5
  cb : s'.cb = s.cb
  inHandler : s'.inHandler = s.inHandler
  seqMain : s'.seqMain = s.seqMain
  seqHnd : s'.seqHnd = s.seqHnd
  cfg : s'.cfg = s.cfg
  hostMain : s'.hostMain = s.hostMain
  hostHnd : s'.hostHnd = s.hostHnd
  sched : s'.sched = s.sched
  tick : s'.tick = s.tick
  noRaise : s'.ctrl.int = true → s.ctrl.int = true
  pend : s'.irqPend = true → s.irqPend = true ∧ s'.ctrl.int = s.ctrl.int
  phase : s'.phase = s.phase ∨ (s'.phase = .idle ∧ s'.ctrl.en = false)
  enable : s'.ctrl.en = s.ctrl.en ∨ s'.ctrl.en = true ∨ s'.phase = .idle ∨ s.cfg.engine = .unconstrained

theorem SameOutside.refl (s : State) : SameOutside s s := by
  constructor <;> simp

theorem clearFlag_same (s : State) : SameOutside s (clearFlag s) := by
  constructor <;> simp

/-- The engine model is one of two. -/
theorem engine_cases (e : EngineModel) : e = .nominal ∨ e = .unconstrained := by cases e <;> simp

theorem writeEnable_same (b : Bool) (s : State) : SameOutside s (writeEnable b s) := by
  constructor <;> (try simp)
  · by_cases h : b = false ∧ s.cfg.engine = .nominal <;> simp_all
  · rcases engine_cases s.cfg.engine with h | h <;> cases b <;> simp [h]

theorem dataWrite_same (v : Byte) (s : State) : SameOutside s (dataWrite v s) := by
  constructor <;> simp

theorem storeCtrlBit_same (i : BitIx) (b : Bool) (s : State) : SameOutside s (storeCtrlBit i b s) := by
  rcases storeCtrlBit_cases i b s with ⟨-, -, h⟩ | ⟨-, h⟩ | ⟨-, h⟩ | ⟨-, h⟩ | ⟨-, h⟩ | ⟨-, h⟩ | ⟨-, h⟩ <;> rw [h]
  · exact clearFlag_same s
  · exact SameOutside.refl s
  · constructor <;> simp
  · constructor <;> simp
  · constructor <;> simp
  · exact writeEnable_same b s
  · constructor <;> simp

/-- A bit write touches the registers only, and can neither raise the flag nor the latch (R65, R67). -/
theorem storeBit_same (r : Reg) (i : BitIx) (b : Bool) (s : State) : SameOutside s (storeBit r i b s) := by
  cases r
  · exact storeCtrlBit_same i b s
  · exact dataWrite_same _ s
  · constructor <;> simp [storeBit]
  · simp only [storeBit]; split
    · constructor <;> simp
    · exact SameOutside.refl s
  · constructor <;> simp [storeBit]

theorem setBit_same (r : Reg) (i : BitIx) (s : State) : SameOutside s (setBit r i s) := storeBit_same r i true s

theorem clrBit_same (r : Reg) (i : BitIx) (s : State) : SameOutside s (clrBit r i s) := storeBit_same r i false s

theorem wrBit_same (r : Reg) (i : BitIx) (b : Bool) (s : State) : SameOutside s (wrBit r i b s) := by
  cases b
  · exact clrBit_same r i s
  · exact setBit_same r i s

/-! ## Whole bytes -/

@[simp] theorem memWrite_data (v : Byte) (s : State) : memWrite .data v s = dataWrite v s := rfl

@[simp] theorem memWrite_oaddr (v : Byte) (s : State) : memWrite .oaddr v s = { s with oaddr := v } := by
  have h := withBit_all s.oaddr v
  simp only [memWrite, List.foldl, storeBit] at *
  simpa using h

@[simp] theorem memWrite_brg (v : Byte) (s : State) : memWrite .brg v s = { s with brg := v } := by
  have h := withBit_all s.brg v
  simp only [memWrite, List.foldl, storeBit] at *
  simpa using h

/-- `WR STAT, v` changes only `PS <- v[1:0]` (R122). -/
theorem memWrite_stat (v : Byte) (s : State) :
    memWrite .stat v s = { s with stat := { s.stat with ps := v.extractLsb' 0 2 } } := by
  have h : ∀ (p : BitVec 2) (v : Byte),
      withBit (withBit p 1 (v.getLsbD 1)) 0 (v.getLsbD 0) = v.extractLsb' 0 2 := by decide
  have e : memWrite .stat v s = { s with stat := { s.stat with
      ps := withBit (withBit s.stat.ps 1 (v.getLsbD 1)) 0 (v.getLsbD 0) } } := rfl
  exact e.trans (congrArg (fun p => { s with stat := { s.stat with ps := p } }) (h s.stat.ps v))

/-- `WR CTRL, v` (R122): a 1 in bit 7 clears the flag and the latch; bits 3 and 1 are ignored. -/
theorem memWrite_ctrl (v : Byte) (s : State) :
    memWrite .ctrl v s =
      { s with
        ctrl :=
          { int := s.ctrl.int && !v.getLsbD 7
            ea := v.getLsbD 6
            sta := v.getLsbD 5
            sto := v.getLsbD 4
            wc := s.ctrl.wc
            en := v.getLsbD 2
            ie := v.getLsbD 0 }
        irqPend := s.irqPend && !v.getLsbD 7
        phase := if v.getLsbD 2 = false ∧ s.cfg.engine = .nominal then .idle else s.phase } := by
  have e : memWrite .ctrl v s =
      storeCtrlBit 0#3 (v.getLsbD 0) (storeCtrlBit 1#3 (v.getLsbD 1) (storeCtrlBit 2#3 (v.getLsbD 2)
        (storeCtrlBit 3#3 (v.getLsbD 3) (storeCtrlBit 4#3 (v.getLsbD 4) (storeCtrlBit 5#3 (v.getLsbD 5)
          (storeCtrlBit 6#3 (v.getLsbD 6) (storeCtrlBit 7#3 (v.getLsbD 7) s))))))) := rfl
  rw [e]
  simp only [storeCtrlBit_6, storeCtrlBit_5, storeCtrlBit_4, storeCtrlBit_3, storeCtrlBit_2,
    storeCtrlBit_1, storeCtrlBit_0]
  generalize v.getLsbD 7 = b7
  cases b7 <;> simp [clearFlag, writeEnable]

theorem memWrite_same (r : Reg) (v : Byte) (s : State) : SameOutside s (memWrite r v s) := by
  cases r
  · rw [memWrite_ctrl]
    constructor <;> simp +contextual
    · by_cases h : v.getLsbD 2 = false ∧ s.cfg.engine = .nominal <;> simp_all
    · rcases engine_cases s.cfg.engine with h | h <;> cases hv : v[2] <;> simp [h]
  · exact dataWrite_same v s
  · rw [memWrite_oaddr]; constructor <;> simp
  · rw [memWrite_stat]; constructor <;> simp
  · rw [memWrite_brg]; constructor <;> simp

/-! ## Reads -/

/-- The bit that `WAIT` polls is the completion flag (R121, R126). -/
@[simp] theorem getBit_ctrl_int (s : State) : getBit .ctrl 7#3 s = s.ctrl.int := by
  have h : ∀ a b c d e f g : Bool,
      (BitVec.ofBool a ++ BitVec.ofBool b ++ BitVec.ofBool c ++ BitVec.ofBool d ++ BitVec.ofBool e ++
        BitVec.ofBool f ++ 0#1 ++ BitVec.ofBool g).getLsbD 7 = a := by decide
  exact h _ _ _ _ _ _ _

/-- `x[STAT] & 0xF8` is the status code alone (R34): the prescaler bits never reach a decoder. -/
theorem statusCode_readReg_stat (s : State) : statusCode (readReg .stat s) = codeByte s.stat.sc5 := by
  have h : ∀ (c : Code5) (p : BitVec 2), ((c ++ 0#1 ++ p : BitVec 8) &&& 0xF8#8) = c ++ 0#3 := by decide
  exact h _ _

end Sys2Proof.Machine
end

