-- ==== Sys2Proof/Laws/PerInstr.lean ====
section
/-! SUPPORT. The per-instruction family `MatchesTable`: the word of an instruction carries the fixed bits of
its row of spec/opcode_table.json, and is handed to the port of that row. -/

namespace Sys2Proof.Laws.MatchesTable

/-- The fixed bits (`match`) of the instruction's row. -/
def tableMatch : Instr → Word16
  | .init _ _ _ => 0x0000#16
  | .start _ _ _ => 0x1000#16
  | .rstart _ _ _ => 0x2000#16
  | .slaw _ _ _ => 0x3000#16
  | .slar _ _ _ => 0x4000#16
  | .mtx _ _ _ => 0x5000#16
  | .mrx _ _ _ => 0x6000#16
  | .stop _ _ _ => 0x7000#16
  | .swait _ _ _ => 0x8000#16
  | .srx _ _ _ => 0x9000#16
  | .stx _ _ _ => 0xA000#16
  | .clrf _ _ _ => 0xB000#16
  | .ien _ _ _ => 0xC000#16
  | .idis _ _ _ => 0xD000#16
  | .setcb _ _ _ => 0xE000#16
  | .rd _ _ => 0x0000#16
  | .wr _ _ => 0x2000#16
  | .setb _ _ => 0x4000#16
  | .clrb _ _ => 0x6000#16
  | .wrb _ _ _ => 0x8000#16
  | .getb _ _ => 0xA000#16

/-- The mask of the rows of a port. -/
def tableMask : Port → Word16
  | .command => 0xF300#16
  | .register => 0xE300#16

/-- The instruction's word has the fixed bits of its row. -/
def Statement (i : Instr) : Prop := encode i &&& tableMask (portOf i) = tableMatch i

/-- A format C word has its operation number in bits 15:12 and zeros in bits 9:8. -/
theorem encodeC_fixed (op : BitVec 4) (sv dv : Bool) (a : Byte) :
    encodeC op sv dv a &&& 0xF300#16 = op ++ 0#12 := by
  unfold encodeC
  apply BitVec.eq_of_getLsbD_eq
  intro n hn
  simp only [BitVec.getLsbD_and, BitVec.getLsbD_append]
  interval_cases n <;> simp

/-- A format R word has its primitive number in bits 15:13 and zeros in bits 9:8. -/
theorem encodeR_fixed (p : BitVec 3) (r : Reg) (a : Byte) : encodeR p r a &&& 0xE300#16 = p ++ 0#13 := by
  unfold encodeR
  generalize indexOfReg r = x
  apply BitVec.eq_of_getLsbD_eq
  intro n hn
  simp only [BitVec.getLsbD_and, BitVec.getLsbD_append]
  interval_cases n <;> simp

theorem init (sv dv : Bool) (a : Byte) : Statement (.init sv dv a) := encodeC_fixed _ sv dv a
theorem start (sv dv : Bool) (a : Byte) : Statement (.start sv dv a) := encodeC_fixed _ sv dv a
theorem rstart (sv dv : Bool) (a : Byte) : Statement (.rstart sv dv a) := encodeC_fixed _ sv dv a
theorem slaw (sv dv : Bool) (a : Byte) : Statement (.slaw sv dv a) := encodeC_fixed _ sv dv a
theorem slar (sv dv : Bool) (a : Byte) : Statement (.slar sv dv a) := encodeC_fixed _ sv dv a
theorem mtx (sv dv : Bool) (a : Byte) : Statement (.mtx sv dv a) := encodeC_fixed _ sv dv a
theorem mrx (sv dv : Bool) (a : Byte) : Statement (.mrx sv dv a) := encodeC_fixed _ sv dv a
theorem stop (sv dv : Bool) (a : Byte) : Statement (.stop sv dv a) := encodeC_fixed _ sv dv a
theorem swait (sv dv : Bool) (a : Byte) : Statement (.swait sv dv a) := encodeC_fixed _ sv dv a
theorem srx (sv dv : Bool) (a : Byte) : Statement (.srx sv dv a) := encodeC_fixed _ sv dv a
theorem stx (sv dv : Bool) (a : Byte) : Statement (.stx sv dv a) := encodeC_fixed _ sv dv a
theorem clrf (sv dv : Bool) (a : Byte) : Statement (.clrf sv dv a) := encodeC_fixed _ sv dv a
theorem ien (sv dv : Bool) (a : Byte) : Statement (.ien sv dv a) := encodeC_fixed _ sv dv a
theorem idis (sv dv : Bool) (a : Byte) : Statement (.idis sv dv a) := encodeC_fixed _ sv dv a
theorem setcb (sv dv : Bool) (a : Byte) : Statement (.setcb sv dv a) := encodeC_fixed _ sv dv a
theorem rd (r : Reg) (a : Byte) : Statement (.rd r a) := encodeR_fixed _ r _
theorem wr (r : Reg) (a : Byte) : Statement (.wr r a) := encodeR_fixed _ r _
theorem setb (r : Reg) (n : BitIx) : Statement (.setb r n) := encodeR_fixed _ r _
theorem clrb (r : Reg) (n : BitIx) : Statement (.clrb r n) := encodeR_fixed _ r _
theorem wrb (r : Reg) (n : BitIx) (b : Bool) : Statement (.wrb r n b) := encodeR_fixed _ r _
theorem getb (r : Reg) (n : BitIx) : Statement (.getb r n) := encodeR_fixed _ r _

end Sys2Proof.Laws.MatchesTable
end

