-- ==== Sys2Proof/Laws/Step.lean ====
section
/-! SUPPORT. What a step can do, said once: one inversion lemma for each of `runSteps`, `exec`, `deliver`,
`contextStep` and `step`. -/

namespace Sys2Proof.Machine

/-! ## Operations and primitives -/

/-- `exec` of a command-port instruction runs its step list. -/
theorem exec_eq_runSteps (i : Instr) (s : State) (h : portOf i = .command) :
    exec i s = runSteps i (stepsOf s.cfg i) s := by
  cases i <;> first | rfl | cases h

/-- Where `runSteps` answers a next state, it took the step the record (or the idle context) names. -/
theorem runSteps_next {i : Instr} {ms : List Micro} {s s' : State} (h : runSteps i ms s = .next s') :
    (∃ m, activeSeq s = .idle ∧ ms[0]? = some m ∧ s' = microStep i 0 Tmp.zero m s) ∨
    (∃ k t m, activeSeq s = .run i k t ∧ ms[k]? = some m ∧ s' = microStep i k t m s) := by
  unfold runSteps at h
  split at h
  · split at h
    · cases h; exact .inl ⟨_, ‹_›, ‹_›, rfl⟩
    · cases h
  · split at h
    · subst_vars
      split at h
      · cases h; exact .inr ⟨_, _, _, ‹_›, ‹_›, rfl⟩
      · cases h
    · cases h

/-- The step a record names, run. -/
theorem runSteps_run {i : Instr} {ms : List Micro} {s : State} {k : Nat} {t : Tmp} {m : Micro}
    (ha : activeSeq s = .run i k t) (hm : ms[k]? = some m) :
    runSteps i ms s = .next (microStep i k t m s) := by
  simp [runSteps, ha, hm]

/-- The first step of an idle context, run. -/
theorem runSteps_idle {i : Instr} {ms : List Micro} {s : State} {m : Micro}
    (ha : activeSeq s = .idle) (hm : ms[0]? = some m) :
    runSteps i ms s = .next (microStep i 0 Tmp.zero m s) := by
  simp [runSteps, ha, hm]

/-- Where a primitive answers a next state, the context was idle, the register write touched nothing
outside the registers, and the response followed. -/
theorem exec_primitive_next {i : Instr} {s s' : State} (hp : portOf i = .register)
    (h : exec i s = .next s') :
    activeSeq s = .idle ∧ ∃ r u, SameOutside s u ∧ s' = respond r u := by
  have key : ∀ (u : State) (r : Resp), SameOutside s u → runPrimitive s u r = .next s' →
      activeSeq s = .idle ∧ ∃ r u, SameOutside s u ∧ s' = respond r u := by
    intro u r hu he
    unfold runPrimitive at he
    split at he
    · cases he; exact ⟨‹_›, r, u, hu, rfl⟩
    · cases he
  cases i <;> try cases hp
  · exact key _ _ (SameOutside.refl s) h
  · exact key _ _ (memWrite_same _ _ s) h
  · exact key _ _ (setBit_same _ _ s) h
  · exact key _ _ (clrBit_same _ _ s) h
  · exact key _ _ (wrBit_same _ _ _ s) h
  · exact key _ _ (SameOutside.refl s) h

/-- Everything a micro-step can do: a step to `k + 1`, with a register write, a poll, a status read or a
slot write; a stutter; or a response. -/
theorem microStep_cases (i : Instr) (k : Nat) (t : Tmp) (m : Micro) (s : State) :
    (∃ t' u, SameOutside s u ∧ microStep i k t m s = goto i (k + 1) t' u ∧
      (m = .check → contractOk i = true)) ∨
    (∃ h, m = .storeCb h ∧ microStep i k t m s = goto i (k + 1) t { s with cb := h }) ∨
    (∃ t', m = .wait ∧ s.ctrl.int = false ∧ microStep i k t m s = goto i k t' s) ∨
    (∃ r, microStep i k t m s = respond r s) := by
  cases m with
  | check =>
    by_cases hc : contractOk i
    · exact .inl ⟨t, s, SameOutside.refl s, by simp [microStep, hc], fun _ => hc⟩
    · exact .inr (.inr (.inr ⟨.invalidCall, by simp [microStep, hc, raiseInvalidCall]⟩))
  | memWrite r v => exact .inl ⟨t, _, memWrite_same r v s, rfl, nofun⟩
  | setBit r n => exact .inl ⟨t, _, setBit_same r n s, rfl, nofun⟩
  | clrBit r n => exact .inl ⟨t, _, clrBit_same r n s, rfl, nofun⟩
  | wrBit r n b => exact .inl ⟨t, _, wrBit_same r n b s, rfl, nofun⟩
  | wait =>
    by_cases hi : s.ctrl.int
    · exact .inl ⟨{ t with b := true }, s, SameOutside.refl s,
        by simp [microStep, pollFlag, hi], nofun⟩
    · exact .inr (.inr (.inl ⟨{ t with b := false }, rfl, by simpa using hi,
        by simp [microStep, pollFlag, hi]⟩))
  | readStat => exact .inl ⟨_, s, SameOutside.refl s, rfl, nofun⟩
  | respondOk => exact .inr (.inr (.inr ⟨_, rfl⟩))
  | respondStatus d => exact .inr (.inr (.inr ⟨_, rfl⟩))
  | receive d =>
    by_cases hr : receiveSuccess (decodeStatus d s.cfg t.s)
    · exact .inr (.inr (.inr ⟨_, by simp [microStep, receiveStep, hr]; rfl⟩))
    · exact .inr (.inr (.inr ⟨_, by simp [microStep, receiveStep, hr]; rfl⟩))
  | storeCb h => exact .inr (.inl ⟨h, rfl, rfl⟩)

/-! ## What the step lists say -/

/-- The slot is written in the step list of `SETCB` only. -/
theorem storeCb_mem {c : Config} {i : Instr} {h : Byte} (hm : Micro.storeCb h ∈ stepsOf c i) :
    ∃ sv dv, i = .setcb sv dv h := by
  cases i <;>
    simp [stepsOf, initSteps, startSteps, rstartSteps, slawSteps, slarSteps, mtxSteps, mrxSteps, stopSteps,
      swaitSteps, srxSteps, stxSteps, clrfSteps, ienSteps, idisSteps, setcbSteps, beginCond, xferByte] at hm ⊢
  exact hm.symm

/-- The slot is written at step 1 of `SETCB` only (R184). -/
theorem storeCb_at {c : Config} {i : Instr} {h : Byte} {k : Nat}
    (hm : (stepsOf c i)[k]? = some (.storeCb h)) : (∃ sv dv, i = .setcb sv dv h) ∧ k = 1 := by
  obtain ⟨sv, dv, rfl⟩ := storeCb_mem (List.mem_of_getElem? hm)
  refine ⟨⟨sv, dv, rfl⟩, ?_⟩
  rcases k with _ | _ | _ | k <;> simp [stepsOf, setcbSteps] at hm ⊢

/-- The micro-step ends its operation with a response. -/
def responds : Micro → Bool
  | .respondOk | .respondStatus _ | .receive _ => true
  | .check | .memWrite _ _ | .setBit _ _ | .clrBit _ _ | .wrBit _ _ _ | .wait | .readStat | .storeCb _ => false

/-- Every step list ends with a response: a step that is not one has a successor. -/
theorem steps_end_with_response {c : Config} {i : Instr} {k : Nat} {m : Micro}
    (h : (stepsOf c i)[k]? = some m) : k + 1 < (stepsOf c i).length ∨ responds m = true := by
  have hk : k < (stepsOf c i).length := (List.getElem?_eq_some_iff.1 h).1
  by_cases hl : k + 1 < (stepsOf c i).length
  · exact .inl hl
  · right
    obtain rfl : k = (stepsOf c i).length - 1 := by omega
    cases i <;> first | (simp [stepsOf] at hk; done) | (cases h; rfl)

/-- Everything `exec` can do where it answers a next state: move the active record after a register write
or none, write the slot at `SETCB`'s step 1, or answer after a register write or none. -/
theorem exec_cases {i : Instr} {s s' : State} (h : exec i s = .next s') :
    (∃ t' u k, SameOutside s u ∧ s' = goto i k t' u) ∨
    (∃ sv dv c t, i = .setcb sv dv c ∧ activeSeq s = .run i 1 t ∧ s' = goto i 2 t { s with cb := c }) ∨
    (∃ r u, SameOutside s u ∧ s' = respond r u) := by
  cases hp : portOf i with
  | register => obtain ⟨-, r, u, hu, e⟩ := exec_primitive_next hp h; exact .inr (.inr ⟨r, u, hu, e⟩)
  | command =>
    rw [exec_eq_runSteps i s hp] at h
    obtain ⟨k, t, m, hm, hk, e⟩ : ∃ k t m, (stepsOf s.cfg i)[k]? = some m ∧
        (activeSeq s = .run i k t ∨ k = 0) ∧ s' = microStep i k t m s := by
      rcases runSteps_next h with ⟨m, -, hm, e⟩ | ⟨k, t, m, ha, hm, e⟩
      · exact ⟨0, _, m, hm, .inr rfl, e⟩
      · exact ⟨k, t, m, hm, .inl ha, e⟩
    rcases microStep_cases i k t m s with ⟨t', u, hu, e', -⟩ | ⟨c, rfl, e'⟩ | ⟨t', -, -, e'⟩ | ⟨r, e'⟩
    · exact .inl ⟨t', u, k + 1, hu, e.trans e'⟩
    · obtain ⟨⟨sv, dv, rfl⟩, rfl⟩ := storeCb_at hm
      rcases hk with hk | hk
      · exact .inr (.inl ⟨sv, dv, c, t, rfl, hk, e.trans e'⟩)
      · cases hk
    · exact .inl ⟨t', s, k, SameOutside.refl s, e.trans e'⟩
    · exact .inr (.inr ⟨r, s, SameOutside.refl s, e.trans e'⟩)

/-! ## Interrupt entry -/

/-- A reference's program is that of the first pair with its id (R221). -/
theorem handlerProgram_eq_some {h : Byte} {hs : List (Byte × List PortWord)} {p : List PortWord} :
    handlerProgram h hs = some p ↔
      ∃ before after, hs = before ++ (h, p) :: after ∧ ∀ q ∈ before, q.1 ≠ h := by
  simp only [handlerProgram, Option.map_eq_some_iff, List.find?_eq_some_iff_append]
  constructor
  · rintro ⟨⟨_, _⟩, ⟨hq, as, bs, e, ha⟩, rfl⟩
    obtain rfl := of_decide_eq_true hq
    exact ⟨as, bs, e, by simpa using ha⟩
  · rintro ⟨as, bs, e, ha⟩
    exact ⟨(h, p), ⟨by simp, as, bs, e, by simpa using ha⟩, rfl⟩

/-- A reference is outside the domain of `HANDLERS` exactly when no pair has its id (R221). -/
theorem handlerProgram_eq_none {h : Byte} {hs : List (Byte × List PortWord)} :
    handlerProgram h hs = none ↔ ∀ q ∈ hs, q.1 ≠ h := by
  simp [handlerProgram, List.find?_eq_none]

/-- Where a delivery answers a next state, it ignored an empty slot or started a registered handler. -/
theorem deliver_next {s s' : State} (h : deliver s = .next s') :
    (s.cb = 0 ∧ s.cfg.emptySlot = .noop ∧ s' = { s with irqPend := false }) ∨
    (s.cb ≠ 0 ∧ ∃ p, handlerProgram s.cb s.cfg.handlers = some p ∧
      s' = { s with irqPend := false, inHandler := true, seqHnd := .idle, hostHnd := { s.hostHnd with prog := p } }) := by
  unfold deliver at h
  split at h
  · split at h
    · cases h
    · cases h; exact .inl ⟨‹_›, ‹_›, rfl⟩
  · split at h
    · cases h
    · cases h; exact .inr ⟨‹_›, _, ‹_›, rfl⟩

/-! ## The turn of the active context -/

/-- Everything the turn of the active context can do. -/
theorem contextStep_cases {s s' : State} (h : contextStep s = .next s') :
    (∃ i k t, activeSeq s = .run i k t ∧ exec i s = .next s') ∨
    (activeSeq s = .idle ∧ ∃ p i, nextWord s = some p ∧ decode p.port p.word = .instr i ∧
      exec i (takeWord s) = .next s') ∨
    (activeSeq s = .idle ∧ ∃ p r, nextWord s = some p ∧ decode p.port p.word = .reserved r ∧
      s' = raiseInvalidCall (takeWord s)) ∨
    (activeSeq s = .idle ∧ nextWord s = none ∧ s.inHandler = true ∧ s' = handlerReturn s) ∨
    (activeSeq s = .idle ∧ nextWord s = none ∧ s.inHandler = false ∧ s' = s) := by
  unfold contextStep at h
  split at h
  · exact .inl ⟨_, _, _, ‹_›, h⟩
  · split at h
    · rename_i p hp
      unfold issue at h
      split at h
      · exact .inr (.inl ⟨‹_›, p, _, hp, ‹_›, h⟩)
      · cases h; exact .inr (.inr (.inl ⟨‹_›, p, _, hp, ‹_›, rfl⟩))
    · cases hh : s.inHandler <;> simp [hh] at h <;> subst h
      · exact .inr (.inr (.inr (.inr ⟨‹_›, ‹_›, rfl, rfl⟩)))
      · exact .inr (.inr (.inr (.inl ⟨‹_›, ‹_›, rfl, rfl⟩)))

/-! ## The step -/

@[simp] theorem turnOf_admitted (s : State) : admitted (turnOf s) s = true := by
  unfold turnOf
  by_cases h : admitted (nextChoice s) s = true
  · rwa [if_pos h]
  · rw [if_neg h]; rfl

/-- Everything a step that answers a next state can do. -/
theorem step_cases {s s' : State} (h : step s = .next s') :
    s.cfg.wf = true ∧
    ((turnOf s = .seq ∧ contextStep (takeChoice s) = .next s') ∨
     (∃ c rx, turnOf s = .complete c rx ∧ completeAdmitted s c rx = true ∧
       s' = engineComplete c rx (takeChoice s)) ∨
     (turnOf s = .stop ∧ stopAdmitted s = true ∧ s' = engineStop (takeChoice s)) ∨
     (turnOf s = .deliver ∧ deliveryEnabled s = true ∧ deliver (takeChoice s) = .next s') ∨
     (turnOf s = .reset ∧ s' = resetEvent (takeChoice s))) := by
  have ha := turnOf_admitted s
  unfold step machineStep at h
  split at h
  · refine ⟨‹_›, ?_⟩
    cases ht : turnOf s <;> rw [ht] at h ha
    · exact .inl ⟨rfl, h⟩
    · cases h; exact .inr (.inl ⟨_, _, rfl, ha, rfl⟩)
    · cases h; exact .inr (.inr (.inl ⟨rfl, ha, rfl⟩))
    · exact .inr (.inr (.inr (.inl ⟨rfl, ha, h⟩)))
    · cases h; exact .inr (.inr (.inr (.inr ⟨rfl, rfl⟩)))
  · cases h

/-- The converse: a step of a well-formed configuration is the chosen agent's. -/
theorem step_eq {s : State} (hw : s.cfg.wf = true) : step s = agentStep (turnOf s) (takeChoice s) := by
  simp [step, machineStep, hw]

end Sys2Proof.Machine
end

