-- ==== Sys2Proof/Laws/Runs.lean ====
section
/-! SUPPORT. Running an operation over several of its steps: the sequencer record and the register effects
of a step do not see each other, so a run of an operation is a chain of register effects. -/

namespace Sys2Proof.Machine

/-! ## The record and the registers are independent -/

@[simp] theorem setActive_setActive (q q' : Seq) (s : State) : setActive q (setActive q' s) = setActive q s := by
  unfold setActive; cases h : s.inHandler <;> simp

@[simp] theorem respond_setActive (r : Resp) (q : Seq) (s : State) : respond r (setActive q s) = respond r s := by
  unfold respond activeFlow; simp

@[simp] theorem readReg_setActive (r : Reg) (q : Seq) (s : State) : readReg r (setActive q s) = readReg r s := by
  cases r <;> simp [readReg]

/-- Setting the record commutes with a change of the registers and the latches. -/
theorem setActive_ctrl_comm (q : Seq) (c : Ctrl) (p : Bool) (h : Phase) (s : State) :
    { setActive q s with ctrl := c, irqPend := p, phase := h } =
      setActive q { s with ctrl := c, irqPend := p, phase := h } := by
  unfold setActive; split <;> rfl

theorem dataWrite_setActive (q : Seq) (v : Byte) (s : State) :
    dataWrite v (setActive q s) = setActive q (dataWrite v s) := by
  rcases s with ⟨⟨fi, ea, sta, sto, wc, en, ie⟩, d, oa, st, br, cb, ip, ih, sm, sh, ph, cf, hm, hh, sc, tk, dr⟩
  cases ih <;> cases fi <;> rfl

theorem storeCtrlBit_setActive (q : Seq) (i : BitIx) (b : Bool) (s : State) :
    storeCtrlBit i b (setActive q s) = setActive q (storeCtrlBit i b s) := by
  rcases bitIx_cases i with rfl | rfl | rfl | rfl | rfl | rfl | rfl | rfl <;> cases b <;>
    (rcases s with ⟨c, d, oa, st, br, cb, ip, ih, sm, sh, ph, cf, hm, hh, sc, tk, dr⟩; cases ih <;> rfl)

/-- A bit write commutes with setting the record. -/
theorem storeBit_setActive (r : Reg) (q : Seq) (i : BitIx) (b : Bool) (s : State) :
    storeBit r i b (setActive q s) = setActive q (storeBit r i b s) := by
  cases r
  · exact storeCtrlBit_setActive q i b s
  · simp only [storeBit, setActive_data, dataWrite_setActive]
  · cases s with | mk c d oa st br cb ip ih => cases ih <;> rfl
  · simp only [storeBit]
    split
    · cases s with | mk c d oa st br cb ip ih => cases ih <;> rfl
    · rfl
  · cases s with | mk c d oa st br cb ip ih => cases ih <;> rfl

theorem setBit_setActive (r : Reg) (q : Seq) (i : BitIx) (s : State) :
    setBit r i (setActive q s) = setActive q (setBit r i s) := storeBit_setActive r q i true s

theorem clrBit_setActive (r : Reg) (q : Seq) (i : BitIx) (s : State) :
    clrBit r i (setActive q s) = setActive q (clrBit r i s) := storeBit_setActive r q i false s

theorem wrBit_setActive (r : Reg) (q : Seq) (i : BitIx) (b : Bool) (s : State) :
    wrBit r i b (setActive q s) = setActive q (wrBit r i b s) := by
  cases b
  · exact clrBit_setActive r q i s
  · exact setBit_setActive r q i s

/-- A byte write commutes with setting the record. -/
theorem memWrite_setActive (r : Reg) (q : Seq) (v : Byte) (s : State) :
    memWrite r v (setActive q s) = setActive q (memWrite r v s) := by
  cases r
  · rw [memWrite_ctrl, memWrite_ctrl]
    simpa using setActive_ctrl_comm q _ _ _ s
  · exact dataWrite_setActive q v s
  · rw [memWrite_oaddr, memWrite_oaddr]; unfold setActive; split <;> rfl
  · rw [memWrite_stat, memWrite_stat]; cases s with | mk c d oa st br cb ip ih => cases ih <;> rfl
  · rw [memWrite_brg, memWrite_brg]; unfold setActive; split <;> rfl

theorem completePhase_setActive (c : Code5) (rx : Option Byte) (q : Seq) (s : State) :
    completePhase (setActive q s) c rx = completePhase s c rx := by
  unfold setActive; split <;> rfl

/-- A completion event commutes with setting the record. -/
theorem engineComplete_setActive (c : Code5) (rx : Option Byte) (q : Seq) (s : State) :
    engineComplete c rx (setActive q s) = setActive q (engineComplete c rx s) := by
  unfold engineComplete
  simp only [completePhase_setActive]
  generalize completePhase s c rx = p
  cases s with | mk c d oa st br cb ip ih => cases ih <;> rfl

/-! ## One step, from the record just set -/

/-- The register effect of a micro-step that only writes. -/
def effect : Micro → State → State
  | .memWrite r v, s => Machine.memWrite r v s
  | .setBit r n, s => Machine.setBit r n s
  | .clrBit r n, s => Machine.clrBit r n s
  | .wrBit r n b, s => Machine.wrBit r n b s
  | .storeCb h, s => { s with cb := h }
  | .check, s | .wait, s | .readStat, s | .respondOk, s | .respondStatus _, s | .receive _, s => s

/-- The micro-step only writes. -/
def isWrite : Micro → Bool
  | .memWrite _ _ | .setBit _ _ | .clrBit _ _ | .wrBit _ _ _ | .storeCb _ => true
  | .check | .wait | .readStat | .respondOk | .respondStatus _ | .receive _ => false

/-- A running operation takes the step its list names. -/
theorem exec_run {i : Instr} {s : State} {k : Nat} {t : Tmp} {m : Micro} (hp : portOf i = .command)
    (ha : activeSeq s = .run i k t) (hm : (stepsOf s.cfg i)[k]? = some m) :
    exec i s = .next (microStep i k t m s) := by
  rw [exec_eq_runSteps i s hp]; exact runSteps_run ha hm

/-- An idle context that issues a command whose contract holds goes to its step 1 (R160). -/
theorem exec_issue {i : Instr} {s : State} (hp : portOf i = .command) (hc : contractOk i = true)
    (ha : activeSeq s = .idle) : exec i s = .next (goto i 1 Tmp.zero s) := by
  rw [exec_eq_runSteps i s hp, runSteps_idle (m := .check) ha (by cases i <;> first | rfl | cases hp)]
  simp [microStep, hc]

/-- A step that only writes, from a record just set. -/
theorem exec_goto_write {i : Instr} {s : State} {k : Nat} {t : Tmp} {m : Micro} (hp : portOf i = .command)
    (hm : (stepsOf s.cfg i)[k]? = some m) (hw : isWrite m = true) :
    exec i (goto i k t s) = .next (goto i (k + 1) t (effect m s)) := by
  rw [exec_run (k := k) (t := t) (m := m) hp (by simp) (by simpa using hm)]
  cases m <;> simp [isWrite] at hw <;>
    simp [microStep, effect, goto, memWrite_setActive, setBit_setActive, clrBit_setActive, wrBit_setActive]
  cases s with | mk c d oa st br cb ip ih => cases ih <;> rfl

/-- A poll, from a record just set, with the flag set. -/
theorem exec_goto_wait {i : Instr} {s : State} {k : Nat} {t : Tmp} (hp : portOf i = .command)
    (hm : (stepsOf s.cfg i)[k]? = some .wait) (hi : s.ctrl.int = true) :
    exec i (goto i k t s) = .next (goto i (k + 1) { t with b := true } s) := by
  rw [exec_run (k := k) (t := t) (m := .wait) hp (by simp) (by simpa using hm)]
  simp [microStep, pollFlag, hi, goto]

/-- A poll, from a record just set, with the flag clear: the stutter. -/
theorem exec_goto_stutter {i : Instr} {s : State} {k : Nat} {t : Tmp} (hp : portOf i = .command)
    (hm : (stepsOf s.cfg i)[k]? = some .wait) (hi : s.ctrl.int = false) :
    exec i (goto i k t s) = .next (goto i k { t with b := false } s) := by
  rw [exec_run (k := k) (t := t) (m := .wait) hp (by simp) (by simpa using hm)]
  simp [microStep, pollFlag, hi, goto]

/-- A status read, from a record just set. -/
theorem exec_goto_readStat {i : Instr} {s : State} {k : Nat} {t : Tmp} (hp : portOf i = .command)
    (hm : (stepsOf s.cfg i)[k]? = some .readStat) :
    exec i (goto i k t s) = .next (goto i (k + 1) { t with s := readReg .stat s } s) := by
  rw [exec_run (k := k) (t := t) (m := .readStat) hp (by simp) (by simpa using hm)]
  simp [microStep, goto]

/-- The last step of an operation with a status output, from a record just set. -/
theorem exec_goto_respondStatus {i : Instr} {s : State} {k : Nat} {t : Tmp} {d : StatusOp}
    (hp : portOf i = .command) (hm : (stepsOf s.cfg i)[k]? = some (.respondStatus d)) :
    exec i (goto i k t s) = .next (respond (.ok (some (decodeStatus d s.cfg t.s)) none) s) := by
  rw [exec_run (k := k) (t := t) (m := .respondStatus d) hp (by simp) (by simpa using hm)]
  simp [microStep, goto]

/-- The last step of an operation without a status output, from a record just set. -/
theorem exec_goto_respondOk {i : Instr} {s : State} {k : Nat} {t : Tmp} (hp : portOf i = .command)
    (hm : (stepsOf s.cfg i)[k]? = some .respondOk) :
    exec i (goto i k t s) = .next (respond (.ok none none) s) := by
  rw [exec_run (k := k) (t := t) (m := .respondOk) hp (by simp) (by simpa using hm)]
  simp [microStep, goto]

/-- The last step of a receive operation, from a record just set. -/
theorem exec_goto_receive {i : Instr} {s : State} {k : Nat} {t : Tmp} {d : StatusOp}
    (hp : portOf i = .command) (hm : (stepsOf s.cfg i)[k]? = some (.receive d)) :
    exec i (goto i k t s) = .next (receiveStep d t s) := by
  rw [exec_run (k := k) (t := t) (m := .receive d) hp (by simp) (by simpa using hm)]
  unfold microStep receiveStep goto; simp

end Sys2Proof.Machine
end

