-- ==== Sys2Proof/Machine/Assembly.lean ====
section
/-! DEFINITION. The notation in which the spec writes programs and responses (R96), as structured lines, and
the canonical words it stands for (R91, R98). The characters of a line (case, number bases, comments) are
not modelled (log entry 15). No step reads this file. -/

namespace Sys2Proof.Machine

/-- The bit of a register in a line: a number, or the name of a one-bit field of `CTRL`, `OADDR` or `STAT`
(R22, R32, R33). -/
inductive AsmBit where
  | number (i : BitIx)
  | int | ea | sta | sto | wc | en | rsv1 | ie
  | gce
  | rsv2
  deriving DecidableEq, Repr

/-- The acknowledge operand of `MRX` and `SRX`. -/
inductive AsmAck where
  | ack | nack
  | number (q : Byte)
  deriving DecidableEq, Repr

/-- A line. `nullS` is `!s`, `nullD` is `!d`. -/
inductive AsmLine where
  | init
  | start (nullS : Bool)
  | rstart (nullS : Bool)
  | slaw (addr : Byte) (nullS : Bool)
  | slar (addr : Byte) (nullS : Bool)
  | mtx (b : Byte) (nullS : Bool)
  | mrx (q : AsmAck) (nullS nullD : Bool)
  | stop
  | swait (nullS : Bool)
  | srx (q : AsmAck) (nullS nullD : Bool)
  | stx (b : Byte) (nullS : Bool)
  | clrf
  | ien
  | idis
  | setcb (h : Byte)
  | rd (r : Reg)
  | wr (r : Reg) (b : Byte)
  | setb (r : Reg) (n : AsmBit)
  | clrb (r : Reg) (n : AsmBit)
  | wrb (r : Reg) (n : AsmBit) (b : Bool)
  | getb (r : Reg) (n : AsmBit)
  deriving DecidableEq, Repr

/-- `ACK` is 1, `NACK` is 0 (R85, R96). -/
def asmDirective : AsmAck → Byte
  | .ack => 0x01
  | .nack => 0x00
  | .number q => q

/-- The bit number; a field name counts only with its own register. -/
def asmBitNumber (r : Reg) : AsmBit → Option BitIx
  | .number i => some i
  | .int => if r = .ctrl then some 7 else none
  | .ea => if r = .ctrl then some 6 else none
  | .sta => if r = .ctrl then some 5 else none
  | .sto => if r = .ctrl then some 4 else none
  | .wc => if r = .ctrl then some 3 else none
  | .en => if r = .ctrl then some 2 else none
  | .rsv1 => if r = .ctrl then some 1 else none
  | .ie => if r = .ctrl then some 0 else none
  | .gce => if r = .oaddr then some 0 else none
  | .rsv2 => if r = .stat then some 2 else none

/-- The instruction of a line: `SV = 1` where there is a status output unless `!s`, `DV = 1` for the receives
unless `!d`, zero in every ignored field (R91, R96). -/
def asmInstr : AsmLine → Option Instr
  | .init => some (.init false false 0)
  | .start n => some (.start (!n) false 0)
  | .rstart n => some (.rstart (!n) false 0)
  | .slaw a n => some (.slaw (!n) false a)
  | .slar a n => some (.slar (!n) false a)
  | .mtx b n => some (.mtx (!n) false b)
  | .mrx q n d => some (.mrx (!n) (!d) (asmDirective q))
  | .stop => some (.stop false false 0)
  | .swait n => some (.swait (!n) false 0)
  | .srx q n d => some (.srx (!n) (!d) (asmDirective q))
  | .stx b n => some (.stx (!n) false b)
  | .clrf => some (.clrf false false 0)
  | .ien => some (.ien false false 0)
  | .idis => some (.idis false false 0)
  | .setcb h => some (.setcb false false h)
  | .rd r => some (.rd r 0)
  | .wr r b => some (.wr r b)
  | .setb r n => (asmBitNumber r n).map (.setb r)
  | .clrb r n => (asmBitNumber r n).map (.clrb r)
  | .wrb r n b => (asmBitNumber r n).map fun i => .wrb r i b
  | .getb r n => (asmBitNumber r n).map (.getb r)

/-- The port and word of a line. -/
def assemble (l : AsmLine) : Option PortWord := (asmInstr l).map encodePort

/-- The name of a Transaction Status (R86). -/
def tsName : Ts → String
  | .startSent => "start-sent"
  | .startError => "start-error"
  | .repStartSent => "repeated-start-sent"
  | .repStartError => "repeated-start-error"
  | .ackReceived => "ack-received"
  | .nackReceived => "nack-received"
  | .arbitrationLost => "arbitration-lost"
  | .addressError => "address-error"
  | .dataError => "data-error"
  | .ackSent => "ack-sent"
  | .nackSent => "nack-sent"

/-- A hexadecimal digit. -/
def hexDigit (n : BitVec 4) : String :=
  ["0", "1", "2", "3", "4", "5", "6", "7", "8", "9", "A", "B", "C", "D", "E", "F"].getD n.toNat ""

/-- A response as a line (R96). -/
def responseText : Resp → String
  | .invalidCall => "invalid-call"
  | .ok ts d =>
    "ok" ++ (match ts with | some t => " " ++ tsName t | none => "") ++
      (match d with | some b => " 0x" ++ hexDigit (b.extractLsb' 4 4) ++ hexDigit (b.extractLsb' 0 4) | none => "")

end Sys2Proof.Machine
end

