-- ==== Sys2Proof/Machine/Peers.lean ====
section
/-! DEFINITION. The two named BUS oracles of the source's tests (R198), as schedules: one event for each
operation, at its `WAIT`, and no other event. What R198 leaves open here is the model's choice: log entry 32. -/

namespace Sys2Proof.Machine

/-- The event with the 8-bit status code `c`. -/
def completeWith (c : Byte) (rx : Option Byte) : Choice := .complete (c.extractLsb' 3 5) rx

/-- The acknowledging mock responder (controller scenario): the event it raises for an operation. `b` is the
byte it sends. For a directive outside the two defined it raises none: the model's choice (log entry 32). -/
def acknowledgingResponder (b : Byte) : Instr → Option Choice
  | .start _ _ _ => some (completeWith scStart none)
  | .rstart _ _ _ => some (completeWith scRstart none)
  | .slaw _ _ _ => some (completeWith scMtSlaAck none)
  | .slar _ _ _ => some (completeWith scMrSlaAck none)
  | .mtx _ _ _ => some (completeWith scMtDataAck none)
  | .mrx _ _ q =>
    if q = 0x01#8 then some (completeWith scMrDataAck (some b))
    else if q = 0x00#8 then some (completeWith scMrDataNack (some b))
    else none
  | .init _ _ _ | .stop _ _ _ | .swait _ _ _ | .srx _ _ _ | .stx _ _ _ | .clrf _ _ _ | .ien _ _ _
  | .idis _ _ _ | .setcb _ _ _ | .rd _ _ | .wr _ _ | .setb _ _ | .clrb _ _ | .wrb _ _ _ | .getb _ _ => none

/-- The addressing mock controller (responder scenario): `b` is the byte it sends, `a` what `DATA` receives
when it addresses the block, which R198 leaves open. For a directive outside the two defined it raises none:
the model's choice (log entry 32). -/
def addressingController (a : Option Byte) (b : Byte) : Instr → Option Choice
  | .swait _ _ _ => some (completeWith scSrSlaAck a)
  | .srx _ _ q => if q = 0x01#8 then some (completeWith scSrDataAck (some b)) else none
  | .init _ _ _ | .start _ _ _ | .rstart _ _ _ | .slaw _ _ _ | .slar _ _ _ | .mtx _ _ _ | .mrx _ _ _
  | .stop _ _ _ | .stx _ _ _ | .clrf _ _ _ | .ien _ _ _
  | .idis _ _ _ | .setcb _ _ _ | .rd _ _ | .wr _ _ | .setb _ _ | .clrb _ _ | .wrb _ _ _ | .getb _ _ => none

/-- The schedule of one operation with one peer: the steps before its `WAIT`, the peer's event, the steps
from `WAIT` on; an operation without event runs its steps, a primitive its one step. An operation that answers
`invalid-call` at its `CHECK` is that one step, with no event: the model's choice (log entry 32). -/
def operationSchedule (c : Config) (peer : Instr → Option Choice) (i : Instr) : List Choice :=
  if contractOk i then
    match waitIndex c i, peer i with
    | some k, some e =>
      List.replicate k .seq ++ [e] ++ List.replicate ((stepsOf c i).length - k) .seq
    | _, _ => List.replicate (max 1 (stepsOf c i).length) .seq
  else [.seq]

end Sys2Proof.Machine
end

