-- ==== Sys2Proof/Tests/Slice0.lean ====
section
/-! SUPPORT. Tests: the well-formedness checks, reserved words and response words, one or two single steps per
instruction, and for every statement with hypotheses a witness that meets them. Expected values are those
of spec/95_test_vectors.md (cited as V and the table) or of the rule named. -/

namespace Sys2Proof.Tests

open Sys2Proof.Machine Sys2Proof.Claims

/-! ## Helpers -/

/-- `CTRL` from its byte. -/
def ctrlOf (c : Byte) : Ctrl :=
  ⟨c.getLsbD 7, c.getLsbD 6, c.getLsbD 5, c.getLsbD 4, c.getLsbD 3, c.getLsbD 2, c.getLsbD 0⟩

/-- The start state of V 2.5: `CTRL` given, `DATA = 0x55`, `STAT = 0x08`, the latch as `INT`, `cb = 1`. -/
def st (c : Byte) : State :=
  { State.reset with ctrl := ctrlOf c, data := 0x55, stat := ⟨1, 0⟩, irqPend := c.getLsbD 7, cb := 1 }

/-- `st c` with the main context at step `k` of `i`. -/
def at_ (i : Instr) (k : Nat) (c : Byte) : State := { st c with seqMain := .run i k Tmp.zero }

/-- `st c` with one word left to issue and the choice of the next step. -/
def issuing (p : Port) (w : Word16) (c : Byte) : State :=
  { st c with hostMain := { Flow.empty with prog := [⟨p, w⟩] }, sched := [.seq] }

/-- What `f` sees in the next state, if there is one. -/
def see {α : Type} (f : State → α) : Host.Outcome State Fault Refusal → Option α
  | .next s => some (f s)
  | .fault _ => none
  | .refused _ => none

/-- The response word of the main flow. -/
def rword (s : State) : Option Word16 := s.hostMain.resp.map responseWord

/-- `CTRL`, `DATA` and the response word. -/
def cdr (s : State) : Byte × Byte × Option Word16 := (readReg .ctrl s, s.data, rword s)

/-- `CTRL` and the response word. -/
def cr (s : State) : Byte × Option Word16 := (readReg .ctrl s, rword s)

/-- `CTRL` and the step the main context is at. -/
def ck (s : State) : Byte × Option Nat :=
  (readReg .ctrl s, match s.seqMain with | .run _ k _ => some k | .idle => none)

/-! ## Well-formedness (R11): each check refuses -/

theorem test_wf_good : resetConfig.wf = true := by decide
theorem test_wf_rate_9 : { resetConfig with rate := 9 }.wf = false := by decide
theorem test_wf_rate_10 : { resetConfig with rate := 10 }.wf = true := by decide
theorem test_wf_rate_0_responder : { resetConfig with rate := 0, role := .responder }.wf = true := by decide
theorem test_wf_addr_0 : { resetConfig with ownAddr := 0 }.wf = false := by decide
theorem test_wf_addr_77 : { resetConfig with ownAddr := 0x77 }.wf = true := by decide
theorem test_wf_addr_78 : { resetConfig with ownAddr := 0x78 }.wf = false := by decide

/-! ## Words (V 2.1, V 2.7) -/

theorem test_reserved_op : decode .command 0xF000#16 = .reserved .op := by decide
theorem test_reserved_z_command : decode .command 0x1900#16 = .reserved .zField := by decide
theorem test_reserved_prim : decode .register 0xC000#16 = .reserved .prim := by decide
theorem test_reserved_reg : decode .register 0x1400#16 = .reserved .reg := by decide
theorem test_reserved_bit_arg : decode .register 0x4008#16 = .reserved .argHigh := by decide
theorem test_reserved_wrb_arg : decode .register 0x8010#16 = .reserved .argHigh := by decide
theorem test_reserved_z_register : decode .register 0x0100#16 = .reserved .zField := by decide
theorem test_ignored_fields : decode .command 0x7CFF#16 = .instr (.stop true true 0xFF#8) := by decide
theorem test_wrb_zero : decode .register 0x8006#16 = .instr (.wrb .ctrl 6#3 false) := by decide
theorem test_encode_mrx : encode (.mrx true true 0x00#8) = 0x6C00#16 := by decide
theorem test_encode_wrb : encode (.wrb .ctrl 6#3 true) = 0x800E#16 := by decide
theorem test_table_word : decodeTableWord 16 0x1800 = some (.start true false 0x00#8) := by decide
theorem test_table_word_reserved : decodeTableWord 16 0xF000 = none := by decide

theorem test_response_words :
    responseWord (.ok none none) = 0x0000#16 ∧ responseWord .invalidCall = 0x8000#16 ∧
    responseWord (.ok (some .startSent) none) = 0x4000#16 ∧
    responseWord (.ok (some .startError) none) = 0x4100#16 ∧
    responseWord (.ok (some .repStartSent) none) = 0x4200#16 ∧
    responseWord (.ok (some .repStartError) none) = 0x4300#16 ∧
    responseWord (.ok (some .ackReceived) none) = 0x4400#16 ∧
    responseWord (.ok (some .nackReceived) none) = 0x4500#16 ∧
    responseWord (.ok (some .arbitrationLost) none) = 0x4600#16 ∧
    responseWord (.ok (some .addressError) none) = 0x4700#16 ∧
    responseWord (.ok (some .dataError) none) = 0x4800#16 ∧
    responseWord (.ok (some .ackSent) none) = 0x4900#16 ∧
    responseWord (.ok (some .nackSent) none) = 0x4A00#16 ∧
    responseWord (.ok (some .ackSent) (some 0x07)) = 0x6907#16 ∧
    responseWord (.ok (some .nackSent) (some 0x2A)) = 0x6A2A#16 ∧
    responseWord (.ok none (some 0x42)) = 0x2042#16 := by decide

/-! ## The notation (R96; the examples of R98) -/

theorem test_assemble :
    assemble (.start false) = some ⟨.command, 0x1800#16⟩ ∧ assemble (.start true) = some ⟨.command, 0x1000#16⟩ ∧
    assemble (.slaw 0x03 false) = some ⟨.command, 0x3803#16⟩ ∧
    assemble (.mrx .ack false false) = some ⟨.command, 0x6C01#16⟩ ∧
    assemble (.setb .ctrl .int) = some ⟨.register, 0x4007#16⟩ ∧
    assemble (.wrb .ctrl (.number 6) true) = some ⟨.register, 0x800E#16⟩ ∧
    assemble (.setb .data .int) = none := by decide
theorem test_response_text :
    responseText (.ok (some .ackSent) (some 0x07)) = "ok ack-sent 0x07" ∧
    responseText (.ok none (some 0x42)) = "ok 0x42" ∧ responseText .invalidCall = "invalid-call" := by decide

/-! ## Decoders (V 2.2, its counts, and V 2.3) -/

/-- How many of the 32 codes an operation does not map to `e`. -/
def named (d : StatusOp) (e : Ts) : Nat :=
  ((List.range 32).filter fun n => decodeStatus d resetConfig (BitVec.ofNat 8 (8 * n)) ≠ e).length

theorem test_decode_counts :
    named .start .startError = 1 ∧ named .rstart .repStartError = 1 ∧ named .slaw .addressError = 3 ∧
    named .slar .addressError = 3 ∧ named .mtx .dataError = 3 ∧ named .mrx .dataError = 3 ∧
    named .swait .addressError = 4 ∧ named .srx .dataError = 4 ∧ named .stx .dataError = 3 := by decide
theorem test_mask_start : decodeStatus .start resetConfig 0x0F = .startSent := by decide
theorem test_mask_slaw : decodeStatus .slaw resetConfig 0x1B = .ackReceived := by decide
theorem test_mask_srx : decodeStatus .srx resetConfig 0x87 = .ackSent := by decide
theorem test_mask_none : decodeStatus .swait resetConfig 0xFF = .addressError := by decide
theorem test_msend_err : decodeStatus .mtx { resetConfig with msendErr := .addressError } 0x00 = .addressError := by
  decide

/-! ## Register primitives, one step each (V 2.5) -/

theorem test_rd_ctrl : see cr (exec (.rd .ctrl 0) (st 0xA4)) = some (0xA4, some 0x20A4) := by decide
theorem test_rd_data : see cr (exec (.rd .data 0) (st 0x84)) = some (0x84, some 0x2055) := by decide
theorem test_wr_ctrl : see (fun s => (cr s, s.irqPend)) (exec (.wr .ctrl 0x84) (st 0xE5)) =
    some ((0x04, some 0x0000), false) := by decide
theorem test_wr_data_collides : see cr (exec (.wr .data 0x42) (st 0x04)) = some (0x0C, some 0x0000) := by decide
theorem test_setb_int : see (fun s => (cr s, s.irqPend)) (exec (.setb .ctrl 7) (st 0xA4)) =
    some ((0x24, some 0x0000), false) := by decide
theorem test_setb_wc_ignored : see cr (exec (.setb .ctrl 3) (st 0x04)) = some (0x04, some 0x0000) := by decide
theorem test_clrb_int_ignored : see cr (exec (.clrb .ctrl 7) (st 0x84)) = some (0x84, some 0x0000) := by decide
theorem test_clrb_sta : see cr (exec (.clrb .ctrl 5) (st 0xA4)) = some (0x84, some 0x0000) := by decide
theorem test_wrb_ea : see cr (exec (.wrb .ctrl 6 true) (st 0x84)) = some (0xC4, some 0x0000) := by decide
theorem test_wrb_ps : see (readReg .stat) (exec (.wrb .stat 1 true) (st 0x84)) = some 0x0A := by decide
theorem test_getb_int : see rword (exec (.getb .ctrl 7) (st 0x84)) = some (some 0x2001) := by decide
theorem test_getb_reserved : see rword (exec (.getb .ctrl 1) (st 0xFF)) = some (some 0x2000) := by decide

/-! ## Command operations, one step each (files 41 to 45; the steps of V 3) -/

theorem test_init_own_address : see (fun s => s.oaddr)
    (exec (.init false false 0) (at_ (.init false false 0) 4 0x00)) = some 0x20 := by decide
theorem test_init_enable : see ck (exec (.init false false 0) (at_ (.init false false 0) 5 0xC1)) =
    some (0xC5, some 6) := by decide
theorem test_start_sets_sta : see ck (exec (.start true false 0) (at_ (.start true false 0) 2 0x84)) =
    some (0xA4, some 3) := by decide
theorem test_start_null_sink : see cr (exec (.start false false 0) (st 0x84)) = some (0x84, some 0x8000) := by
  decide
theorem test_rstart_clears_flag : see (fun s => (ck s, s.irqPend))
    (exec (.rstart true false 0) (at_ (.rstart true false 0) 3 0xA4)) = some ((0x24, some 4), false) := by decide
theorem test_slaw_load : see (fun s => s.data)
    (exec (.slaw true false 0x83) (at_ (.slaw true false 0x83) 1 0xA4)) = some 0x06 := by decide
theorem test_slar_bit : see (fun s => s.data)
    (exec (.slar true false 0x03) { at_ (.slar true false 0x03) 2 0xA4 with data := 0x06 }) = some 0x07 := by decide
theorem test_mtx_load : see (fun s => s.data)
    (exec (.mtx true false 0x42) (at_ (.mtx true false 0x42) 1 0x84)) = some 0x42 := by decide
theorem test_mrx_nack : see ck (exec (.mrx true true 0) (at_ (.mrx true true 0) 1 0xC4)) =
    some (0x84, some 2) := by decide
theorem test_mrx_directive_2 : see cr (exec (.mrx true true 2) (st 0x84)) = some (0x84, some 0x8000) := by decide
theorem test_stop_sets_sto : see ck (exec (.stop true true 0xFF) (at_ (.stop true true 0xFF) 2 0x84)) =
    some (0x94, some 3) := by decide
theorem test_swait_ea : see ck (exec (.swait true false 0) (at_ (.swait true false 0) 3 0x84)) =
    some (0xC4, some 4) := by decide
theorem test_swait_stale_flag : see ck (exec (.swait true false 0) (at_ (.swait true false 0) 4 0xC4)) =
    some (0xC4, some 5) := by decide
theorem test_srx_byte : see cdr (exec (.srx true true 1)
    { at_ (.srx true true 1) 7 0xC4 with seqMain := .run (.srx true true 1) 7 ⟨true, 0x80, 0⟩ }) =
    some (0xC4, 0x55, some 0x6955) := by decide
theorem test_srx_no_byte : see cdr (exec (.srx true true 1)
    { at_ (.srx true true 1) 7 0xC4 with seqMain := .run (.srx true true 1) 7 ⟨true, 0x38, 0⟩ }) =
    some (0xC4, 0x55, some 0x4800) := by decide
theorem test_stx_last : see cdr (exec (.stx true false 5)
    { at_ (.stx true false 5) 7 0xC4 with seqMain := .run (.stx true false 5) 7 ⟨true, 0xC8, 0⟩ }) =
    some (0xC4, 0x55, some 0x4400) := by decide
theorem test_clrf : see (fun s => (ck s, s.irqPend)) (exec (.clrf false false 0) (at_ (.clrf false false 0) 1 0xC5)) =
    some ((0x45, some 2), false) := by decide
theorem test_ien : see ck (exec (.ien false false 0) (at_ (.ien false false 0) 1 0x04)) =
    some (0x05, some 2) := by decide
theorem test_idis_keeps_latch : see (fun s => (ck s, s.irqPend))
    (exec (.idis false false 0) (at_ (.idis false false 0) 1 0x85)) = some ((0x84, some 2), true) := by decide
theorem test_setcb : see (fun s => s.cb) (exec (.setcb false false 0xFF) (at_ (.setcb false false 0xFF) 1 0x04)) =
    some 0xFF := by decide
theorem test_setcb_null : see (fun s => (s.cb, rword s)) (exec (.setcb false false 0) (st 0x84)) =
    some (1, some 0x8000) := by decide

/-! ## Steps of the machine (R9, R90, R192, R193, R221, R222, R240) -/

theorem test_step_issues : see ck (step (State.reset.withFetchWord 16 0x1800)) = some (0x00, some 1) := by decide
theorem test_step_reserved : see cr (step (State.reset.withFetchWord 16 0xF000)) = some (0x00, some 0x8000) := by
  decide
theorem test_step_register_port : see cr (step (issuing .register 0x800E 0x84)) = some (0xC4, some 0x0000) := by
  decide
theorem test_step_complete :
    see (fun s => (readReg .ctrl s, readReg .stat s, s.data, s.irqPend))
      (step { st 0x24 with sched := [.complete 0b01010 (some 0x2A)] }) = some (0xA4, 0x50, 0x2A, true) := by decide
theorem test_step_stop_event : see (readReg .ctrl) (step { st 0x14 with sched := [.stop] }) = some 0x04 := by decide
theorem test_step_delivery :
    see (fun s => (s.irqPend, s.inHandler, readReg .ctrl s, s.hostHnd.prog))
      (step { st 0x85 with
        cfg := { resetConfig with handlers := [(1, [⟨.command, 0xB000⟩])] }, sched := [.deliver] }) =
      some (false, true, 0x85, [⟨.command, 0xB000⟩]) := by decide
theorem test_step_reset : see (fun s => (readReg .ctrl s, s.cb, s.irqPend))
    (step { st 0xFF with sched := [.reset] }) = some (0x00, 0, false) := by decide

/-- The schedule of `START` with the acknowledging peer: the four steps before its `WAIT`, the event, and the
three steps from the `WAIT` on (R140, R198). -/
theorem test_peer_schedule :
    operationSchedule resetConfig (acknowledgingResponder 0x2A) (.start true false 0) =
      [.seq, .seq, .seq, .seq, .complete 1 none, .seq, .seq, .seq] := by decide

/-- With the acknowledging peer: send-nack raises `0x58` with a byte (R198), an undefined directive and a null
sink no event (log entry 32). -/
theorem test_peer_directives :
    acknowledgingResponder 0x2A (.mrx true true 0) = some (.complete 0b01011 (some 0x2A)) ∧
    operationSchedule resetConfig (acknowledgingResponder 0x2A) (.mrx true true 2) = [.seq] ∧
    operationSchedule resetConfig (acknowledgingResponder 0x2A) (.start false false 0) = [.seq] := by decide

/-! ## Witnesses: concrete inputs that meet the hypotheses of each statement, clause by clause -/

/-- A step of the machine answers a next state with the property `P`. -/
def steps (s : State) (P : State → Bool) : Bool := match see P (step s) with | some b => b | none => false

/-- `exec` answers a next state with the property `P`. -/
def execs (i : Instr) (s : State) (P : State → Bool) : Bool :=
  match see P (exec i s) with | some b => b | none => false

theorem next_of_steps {s : State} {P : State → Bool} (h : steps s P = true) :
    ∃ s', step s = .next s' ∧ P s' = true := by
  unfold steps see at h
  cases ho : step s <;> simp [ho] at h
  exact ⟨_, rfl, h⟩

theorem next_of_execs {i : Instr} {s : State} {P : State → Bool} (h : execs i s P = true) :
    ∃ s', exec i s = .next s' ∧ P s' = true := by
  unfold execs see at h
  cases ho : exec i s <;> simp [ho] at h
  exact ⟨_, rfl, h⟩

theorem witness_EncodeOfDecodeIsTheWord :
    decode .command 0xECFF#16 = .instr (.setcb true true 0xFF#8) ∧
    decode .register 0xB007#16 = .instr (.getb .brg 7#3) := by decide

/-- Each clause of "reserved", with the nearest word that is not. -/
theorem witness_ReservedWordsAnswerInvalidCall :
    reservedWord .command 0xF000#16 ∧ reservedWord .command 0x0300#16 ∧ ¬ reservedWord .command 0xECFF#16 ∧
    reservedWord .register 0xC000#16 ∧ reservedWord .register 0xE000#16 ∧ reservedWord .register 0x0100#16 ∧
    reservedWord .register 0x1400#16 ∧ ¬ reservedWord .register 0x10FF#16 ∧ reservedWord .register 0x4008#16 ∧
    reservedWord .register 0x6008#16 ∧ reservedWord .register 0xA008#16 ∧ ¬ reservedWord .register 0x4007#16 ∧
    reservedWord .register 0x8010#16 ∧ ¬ reservedWord .register 0x800F#16 ∧ activeSeq State.reset = .idle := by
  simp only [reservedWord]
  and_intros <;> decide

theorem witness_RespondAndGotoTouchTheActiveContextOnly :
    State.reset.inHandler = false ∧ { State.reset with inHandler := true }.inHandler = true := by decide

theorem witness_StepRunsTheDecodedInstruction :
    (issuing .register 0x800E 0x84).cfg.wf = true ∧ turnOf (issuing .register 0x800E 0x84) = .seq ∧
    activeSeq (issuing .register 0x800E 0x84) = .idle ∧
    nextWord (issuing .register 0x800E 0x84) = some ⟨.register, 0x800E#16⟩ ∧
    decode .register 0x800E#16 = .instr (.wrb .ctrl 6#3 true) ∧
    turnOf (issuing .command 0xF000 0x84) = .seq ∧ activeSeq (issuing .command 0xF000 0x84) = .idle ∧
    nextWord (issuing .command 0xF000 0x84) = some ⟨.command, 0xF000#16⟩ ∧
    decode .command 0xF000#16 = .reserved .op ∧
    turnOf { st 0x84 with sched := [.seq] } = .seq ∧ (st 0x84).inHandler = false ∧
    nextWord { st 0x84 with sched := [.seq] } = none ∧
    turnOf { at_ (.stop false false 0) 1 0x84 with sched := [.seq] } = .seq ∧
    activeSeq { at_ (.stop false false 0) 1 0x84 with sched := [.seq] } = .run (.stop false false 0) 1 Tmp.zero ∧
    decodeTableWord 16 0xECFF = some (.setcb true true 0xFF#8) := by decide

theorem witness_IllFormedConfigurationIsRefused :
    { resetConfig with rate := 10, ownAddr := 0x01 }.wf = true ∧ { resetConfig with rate := 9 }.wf = false ∧
    { resetConfig with ownAddr := 0 }.wf = false ∧ { resetConfig with ownAddr := 0x78 }.wf = false := by decide

/-- The state of the engine witnesses: `CTRL` and phase given, under the engine model given. -/
def eng (c : Byte) (e : EngineModel) (p : Phase) (ch : Choice) : State :=
  { st c with cfg := { resetConfig with engine := e }, phase := p, sched := [ch], oaddr := 0x21 }

theorem witness_CompletionEventEffect :
    (eng 0x24 .unconstrained .idle (.complete 1 none)).cfg.wf = true ∧
    nextChoice (eng 0x24 .unconstrained .idle (.complete 1 none)) = .complete 1 none ∧
    completeAdmitted (eng 0x24 .unconstrained .idle (.complete 1 none)) 1 none = true ∧
    completeAdmitted (eng 0x24 .nominal .idle (.complete 1 none)) 1 none = true ∧
    completeAdmitted (eng 0x24 .nominal .idle (.complete 1 (some 0))) 1 (some 0) = false ∧
    completeAdmitted (eng 0xA4 .unconstrained .idle (.complete 1 none)) 1 none = false ∧
    completeAdmitted (eng 0x20 .unconstrained .idle (.complete 1 none)) 1 none = false := by decide

theorem witness_StopEventEffect :
    (eng 0x14 .nominal .mt .stop).cfg.wf = true ∧ nextChoice (eng 0x14 .nominal .mt .stop) = .stop ∧
    (eng 0x14 .nominal .mt .stop).ctrl = ⟨false, false, false, true, false, true, false⟩ ∧
    stopAdmitted (eng 0x04 .nominal .mt .stop) = false ∧ stopAdmitted (eng 0x94 .nominal .mt .stop) = false ∧
    stopAdmitted (eng 0x10 .nominal .mt .stop) = false := by decide

/-- Each phase clause is met, and an event of it is admitted. -/
theorem witness_NominalControllerEvents :
    nominalIn .idle true (eng 0x24 .nominal .idle .seq) ∧ admits (eng 0x24 .nominal .idle .seq) 1 none .mStart ∧
    admits (eng 0x64 .nominal .idle .seq) 0b01110 none .srGc ∧
    nominalIn .mr true (eng 0x24 .nominal .mr .seq) ∧ admits (eng 0x24 .nominal .mr .seq) 2 none .mStart ∧
    nominalIn .mStart false (eng 0x44 .nominal .mStart .seq) ∧
    admits (eng 0x44 .nominal .mStart .seq) 0b01000 none .mr ∧
    admits { eng 0x44 .nominal .mStart .seq with data := 0x06 } 0b00011 none .mt ∧
    admits (eng 0x44 .nominal .mStart .seq) 0b00111 none .idle ∧
    admits (eng 0x44 .nominal .mStart .seq) 0b10110 (some 1) .st ∧
    nominalIn .mt false (eng 0x04 .nominal .mt .seq) ∧ admits (eng 0x04 .nominal .mt .seq) 0b00101 none .mt ∧
    nominalIn .mr false (eng 0x44 .nominal .mr .seq) ∧ admits (eng 0x44 .nominal .mr .seq) 0b01010 (some 7) .mr ∧
    admits (eng 0x04 .nominal .mr .seq) 0b01011 (some 7) .mr := by
  unfold nominalIn admits
  and_intros <;> decide

theorem witness_NominalResponderEvents :
    nominalIn .idle false (eng 0x44 .nominal .idle .seq) ∧ addressed (eng 0x44 .nominal .idle .seq) 0x60#8 .sr ∧
    nominalIn .idle true (eng 0x64 .nominal .idle .seq) ∧ addressed (eng 0x64 .nominal .idle .seq) 0xA8#8 .st ∧
    addressed (eng 0x64 .nominal .idle .seq) 0x70#8 .srGc ∧
    nominalIn .sr false (eng 0x44 .nominal .sr .seq) ∧ admits (eng 0x44 .nominal .sr .seq) 0b10000 (some 7) .sr ∧
    nominalIn .srGc false (eng 0x04 .nominal .srGc .seq) ∧
    admits (eng 0x04 .nominal .srGc .seq) 0b10011 (some 7) .idle ∧
    nominalIn .st false (eng 0x44 .nominal .st .seq) ∧ admits (eng 0x44 .nominal .st .seq) 0b10111 none .st := by
  unfold nominalIn admits addressed
  and_intros <;> decide

theorem witness_NominalStopAndUnnamedCombinations :
    (eng 0x14 .nominal .mt .seq).cfg.engine = .nominal ∧ (eng 0x14 .nominal .mt .seq).ctrl.en = true ∧
    (eng 0x14 .nominal .mt .seq).ctrl.int = false ∧ (eng 0x14 .nominal .mt .seq).ctrl.sto = true ∧
    (eng 0x14 .nominal .mt .seq).ctrl.sta = false ∧ (eng 0x34 .nominal .idle .seq).ctrl.sta = true ∧
    (eng 0x34 .nominal .idle .seq).ctrl.sto = true ∧ (eng 0x24 .nominal .st .seq).ctrl.sta = true ∧
    (eng 0x24 .nominal .st .seq).phase = .st := by decide

/-- A state in which a delivery is enabled, with the reference given in the slot; the id 1 has two pairs after
one of another id. -/
def pending (cb : Byte) (p : EmptySlotPolicy) : State :=
  { st 0x85 with
    cb := cb, sched := [.deliver]
    cfg := { resetConfig with
      handlers := [(3, [⟨.command, 0xC000⟩]), (1, [⟨.command, 0xB000⟩]), (1, [⟨.command, 0xD000⟩])]
      emptySlot := p } }

theorem witness_InterruptEntry :
    (pending 1 .fault).cfg.wf = true ∧ nextChoice (pending 1 .fault) = .deliver ∧ (pending 1 .fault).irqPend = true ∧
    (pending 1 .fault).ctrl.ie = true ∧ (pending 1 .fault).inHandler = false ∧ (pending 1 .fault).cb ≠ 0#8 ∧
    (pending 1 .fault).cfg.handlers =
      [(3, [⟨.command, 0xC000⟩])] ++ ((pending 1 .fault).cb, [⟨.command, 0xB000⟩]) ::
        [(1, [⟨.command, 0xD000⟩])] ∧
    (∀ p ∈ [((3 : Byte), [(⟨.command, 0xC000⟩ : PortWord)])], p.1 ≠ (pending 1 .fault).cb) ∧
    (∀ p ∈ (pending 2 .fault).cfg.handlers, p.1 ≠ (pending 2 .fault).cb) := by decide

theorem witness_DeliveryToTheEmptySlot :
    (pending 0 .fault).cfg.wf = true ∧ nextChoice (pending 0 .fault) = .deliver ∧ (pending 0 .fault).irqPend = true ∧
    (pending 0 .fault).ctrl.ie = true ∧ (pending 0 .fault).inHandler = false ∧ (pending 0 .fault).cb = 0#8 ∧
    (pending 0 .fault).cfg.emptySlot = .fault ∧ (pending 0 .noop).cfg.emptySlot = .noop := by decide

theorem witness_DeliveryOnlyUnderItsGuard :
    nextChoice (pending 1 .fault) = .deliver ∧ turnOf (pending 1 .fault) = .deliver ∧
    turnOf { pending 1 .fault with inHandler := true } = .seq := by decide

/-- In the handler, with its program ended. -/
def ending : State := { pending 1 .fault with inHandler := true, sched := [.seq] }

theorem witness_HandlerReturn :
    ending.cfg.wf = true ∧ turnOf ending = .seq ∧ ending.inHandler = true ∧ ending.seqHnd = .idle ∧
    ending.hostHnd.prog = [] := by decide

theorem witness_MainContextIsFrozenByTheHandler :
    (∃ s', step ending = .next s' ∧ turnOf ending ≠ .reset ∧ ending.inHandler = true) ∧
    (∃ s', step (pending 1 .fault) = .next s' ∧ turnOf (pending 1 .fault) ≠ .reset ∧ s'.inHandler = true) := by
  obtain ⟨a, ha, -⟩ := next_of_steps (s := ending) (P := fun _ => true) (by decide)
  obtain ⟨b, hb, hp⟩ := next_of_steps (s := pending 1 .fault) (P := fun s => s.inHandler) (by decide)
  exact ⟨⟨a, ha, by decide, by decide⟩, ⟨b, hb, by decide, hp⟩⟩

/-- `SETCB 2` at its write step, on the context's turn. -/
def storing : State := { at_ (.setcb false false 2) 1 0x84 with sched := [.seq] }

theorem witness_SlotIsWrittenOnlyBySetcb :
    ∃ s', step storing = .next s' ∧ turnOf storing ≠ .reset ∧ s'.cb ≠ storing.cb ∧ storing.Inv = true ∧
      storing.cb ≠ 0#8 := by
  obtain ⟨a, ha, hp⟩ := next_of_steps (s := storing) (P := fun s => s.cb != storing.cb) (by decide)
  exact ⟨a, ha, by decide, by simpa using hp, by decide, by decide⟩

/-- For `OnlyCompletionRaisesTheFlag` and `StatusCodeChangesOnlyAtCompletion`. -/
theorem witness_OnlyCompletionRaisesTheFlag_and_StatusCode :
    ∃ s', step (eng 0x24 .unconstrained .idle (.complete 2 none)) = .next s' ∧
      (eng 0x24 .unconstrained .idle (.complete 2 none)).ctrl.int = false ∧ s'.ctrl.int = true ∧
      (eng 0x24 .unconstrained .idle (.complete 2 none)).irqPend = false ∧ s'.irqPend = true ∧
      s'.stat.sc5 ≠ (eng 0x24 .unconstrained .idle (.complete 2 none)).stat.sc5 := by
  obtain ⟨a, ha, hp⟩ := next_of_steps (s := eng 0x24 .unconstrained .idle (.complete 2 none))
    (P := fun s => s.ctrl.int && s.irqPend && (s.stat.sc5 != 1)) (by decide)
  simp at hp
  exact ⟨a, ha, by decide, hp.1.1, by decide, hp.1.2, fun h => hp.2 (h.trans (by decide))⟩

theorem witness_ConfigurationIsImmutable : ∃ s', step storing = .next s' := by
  obtain ⟨a, ha, -⟩ := next_of_steps (s := storing) (P := fun _ => true) (by decide)
  exact ⟨a, ha⟩

theorem witness_EveryStepKeepsTheInvariant : storing.Inv = true ∧ ∃ s', step storing = .next s' :=
  ⟨by decide, witness_ConfigurationIsImmutable⟩

theorem witness_OnlyADeliveryStopsTheMachine :
    (pending 0 .fault).cfg.wf = true ∧ (pending 0 .fault).Inv = true ∧
    step (pending 0 .fault) = .fault .emptySlotDelivery ∧
    (pending 2 .fault).cfg.wf = true ∧ (pending 2 .fault).Inv = true ∧
    step (pending 2 .fault) = .refused .unknownHandler ∧
    storing.cfg.wf = true ∧ storing.Inv = true ∧ turnOf storing ≠ .deliver :=
  ⟨by decide, by decide, rfl, by decide, by decide, rfl, by decide, by decide, by decide⟩

theorem witness_WhatResetLeaves :
    { st 0xFF with sched := [.reset] }.cfg.wf = true ∧ nextChoice { st 0xFF with sched := [.reset] } = .reset ∧
    ∃ s', step { st 0xFF with sched := [.reset] } = .next s' := by
  obtain ⟨a, ha, -⟩ := next_of_steps (s := { st 0xFF with sched := [.reset] }) (P := fun _ => true) (by decide)
  exact ⟨by decide, by decide, a, ha⟩

/-- For each clause of the frame a step that changes what the clause speaks of, and both contexts. -/
theorem witness_FrameOfEveryInstruction :
    execs (.setcb true true 2) (at_ (.setcb true true 2) 1 0x04) (fun s => s.cb != 1) = true ∧
    execs (.wr .oaddr 0xEF) (st 0x04) (fun s => s.oaddr != 0xFE) = true ∧
    execs (.wr .brg 0xEF) (st 0x04) (fun s => s.brg != 0) = true ∧
    execs (.setb .stat 1) (st 0x04) (fun s => s.stat.ps != 0) = true ∧
    execs (.mtx true false 1) (at_ (.mtx true false 1) 1 0x84) (fun s => s.data != 0x55) = true ∧
    execs (.swait true false 1) (at_ (.swait true false 1) 3 0x84) (fun s => s.ctrl.ea) = true ∧
    execs (.ien true false 1) (at_ (.ien true false 1) 1 0x84) (fun s => s.ctrl.ie) = true ∧
    execs (.clrb .ctrl 2) (st 0x04) (fun s => !s.ctrl.en) = true ∧
    execs (.clrf true false 1) (at_ (.clrf true false 1) 1 0x84) (fun s => !s.ctrl.int) = true ∧
    execs (.stop true false 1) (at_ (.stop true false 1) 1 0x24) (fun s => !s.ctrl.sta) = true ∧
    execs (.rd .ctrl 0) { st 0x04 with inHandler := true } (fun s => s.inHandler) = true ∧
    execs (.rd .ctrl 0) (st 0x04) (fun s => !s.inHandler) = true := by decide

theorem witness_ContractCheck :
    portOf (.mrx true true 0x02#8) = .command ∧ activeSeq (st 0x84) = .idle ∧ violates (.mrx true true 0x02#8) ∧
    ¬ violates (.mrx true true 0x01#8) ∧ violates (.mrx true false 0x00#8) ∧ violates (.start false true 0x00#8) ∧
    violates (.setcb true true 0x00#8) ∧ ¬ violates (.setcb false false 0xFF#8) ∧
    ¬ violates (.stop false false 0x00#8) ∧ (0x1900#16).extractLsb' 8 2 ≠ 0#2 := by
  simp only [violates]
  and_intros <;> decide

/-- A running context can be at any step of any operation, with any values read and any registers: the
hypothesis `atStep` of `InitStepList`, `StartStepList`, `RstartStepList`, `SlawStepList`, `SlarStepList`,
`SendDataStepLists`, `ReceiveDataStepLists`, `StopStepList`, `SwaitStepList`, `FlagAndCallbackStepLists`. -/
theorem witness_step_lists (i : Instr) (k : Nat) (t : Tmp) (s : State) : atStep i k t (goto i k t s) := by
  unfold atStep; simp

theorem witness_WaitPollsTheFlag :
    (stepsOf resetConfig (.srx true true 1))[5]? = some .wait ∧
    (at_ (.srx true true 1) 5 0x84).ctrl.int = true ∧ (at_ (.srx true true 1) 5 0x04).ctrl.int = false ∧
    activeSeq (at_ (.srx true true 1) 5 0x04) = .run (.srx true true 1) 5 Tmp.zero := by decide

/-- An idle context, with the flag set or clear: the hypotheses of `InitFromAnyState`,
`StartFromIssueToResponse`, `TransfersFromIssueToResponse`, `ReceivesFromIssueToResponse`,
`SwaitWithAndWithoutAStaleFlag`, `StopAndFlagOperationsFromIssueToResponse`, `RdAnswersTheComposedByte`,
`WrWritesTheRegister`, `BitPrimitivesWriteOneBit`, `GetbAnswersTheBit`. -/
theorem witness_whole_operations :
    activeSeq (st 0x84) = .idle ∧ (st 0x84).ctrl.int = true ∧ activeSeq (st 0x04) = .idle ∧
    (st 0x04).ctrl.int = false ∧ (0x00#8 = 0x00#8 ∨ 0x00#8 = 0x01#8) ∧ (0x01#8 = 0x00#8 ∨ 0x01#8 = 0x01#8) ∧
    (0x01#8 : Byte) ≠ 0x00#8 := by
  decide

/-- `START` polling with the peripheral disabled, and a schedule of two steps without a reset. -/
def hanging : State := { at_ (.start true false 0) 4 0x20 with sched := [.complete 1 none, .deliver] }

theorem witness_WaitHangsWhileDisabled :
    hanging.cfg.wf = true ∧ hanging.ctrl.en = false ∧ hanging.ctrl.int = false ∧ hanging.irqPend = false ∧
    hanging.sched.length = 2 ∧ Choice.reset ∉ hanging.sched ∧
    (stepsOf hanging.cfg (.start true false 0))[4]? = some .wait ∧
    atStep (.start true false 0) 4 Tmp.zero hanging := by
  unfold atStep; decide

theorem witness_ReadsHaveNoSideEffect :
    (∃ reg a, Instr.rd .stat 0xFF = .rd reg a) ∧ (∃ reg n, Instr.getb .ctrl 7 = .getb reg n) ∧
    activeSeq (st 0x84) = .idle := ⟨⟨_, _, rfl⟩, ⟨_, _, rfl⟩, rfl⟩

theorem witness_BitPrimitivesAreBitAtomic :
    (6#3 : BitIx) ≠ 7#3 ∧ (0#3 : BitIx) ≠ 7#3 ∧ activeSeq (st 0x84) = .idle := by decide

theorem witness_WriteCollision :
    activeSeq (st 0x84) = .idle ∧ (st 0x84).ctrl.int = true ∧ activeSeq (st 0x04) = .idle ∧
    (st 0x04).ctrl.int = false := by decide

theorem witness_DecodersIgnoreTheLowBits : (0x07#8) &&& 0xF8#8 = 0#8 ∧ (0x00#8) &&& 0xF8#8 = 0#8 := by decide

theorem witness_MockBankDecodesTheStatus :
    portOf (.srx true true 0x80#8) = .command ∧ violates (.srx true true 0x80#8) ∧
    (0x00#8 = 0x00#8 ∨ 0x00#8 = 0x01#8) ∧ (0x01#8 = 0x00#8 ∨ 0x01#8 = 0x01#8) ∧
    (MockBank.mk 0x80 0 0 0x60 0).ctrl.getLsbD 7 = true ∧
    (MockBank.mk 0x7F 0 0 0x60 0).ctrl.getLsbD 7 = false := by
  simp only [violates]
  and_intros <;> decide

end Sys2Proof.Tests
end

section
/-! PROOFS. The turn of the active context, one equation per case (R9, R40, R90, R246), and the placing of a
word where the next step issues it. -/

namespace Sys2Proof.Machine

open Sys2Proof.Claims

/-! ## The record and the flow of the active context -/

theorem setActive_of_main {s : State} (h : s.inHandler = false) (q : Seq) :
    setActive q s = { s with seqMain := q } := by simp [setActive, h]

theorem setActive_of_hnd {s : State} (h : s.inHandler = true) (q : Seq) :
    setActive q s = { s with seqHnd := q } := by simp [setActive, h]

theorem respond_of_main {s : State} (h : s.inHandler = false) (r : Resp) :
    respond r s = { s with seqMain := .idle, hostMain := s.hostMain.receive r } := by
  simp [respond, setFlow, activeFlow, setActive_of_main, h]

theorem respond_of_hnd {s : State} (h : s.inHandler = true) (r : Resp) :
    respond r s = { s with seqHnd := .idle, hostHnd := s.hostHnd.receive r } := by
  simp [respond, setFlow, activeFlow, setActive_of_hnd, h]

/-- Answered to an idle context, `invalid-call` changes the flow's last response only (R210). -/
theorem raiseInvalidCall_of_idle {s : State} (ha : activeSeq s = .idle) :
    raiseInvalidCall s = invalidCallOnly s := by
  cases hh : s.inHandler
  · have hq : s.seqMain = .idle := by simpa [activeSeq, hh] using ha
    simp [raiseInvalidCall, invalidCallOnly, respond_of_main hh, hh, Flow.receive, ← hq]
  · have hq : s.seqHnd = .idle := by simpa [activeSeq, hh] using ha
    simp [raiseInvalidCall, invalidCallOnly, respond_of_hnd hh, hh, Flow.receive, ← hq]

/-! ## The turn, case by case -/

@[simp] theorem nextWord_takeChoice (s : State) : nextWord (takeChoice s) = nextWord s := rfl

theorem contextStep_of_run {s : State} {i : Instr} {k : Nat} {t : Tmp} (ha : activeSeq s = .run i k t) :
    contextStep s = exec i s := by simp [contextStep, ha]

theorem contextStep_of_instr {s : State} {p : PortWord} {i : Instr} (ha : activeSeq s = .idle)
    (hn : nextWord s = some p) (hd : decode p.port p.word = .instr i) :
    contextStep s = exec i (takeWord s) := by simp [contextStep, ha, hn, issue, hd]

theorem contextStep_of_reserved {s : State} {p : PortWord} {r : Reserved} (ha : activeSeq s = .idle)
    (hn : nextWord s = some p) (hd : decode p.port p.word = .reserved r) :
    contextStep s = .next (invalidCallOnly (takeWord s)) := by
  have hi : activeSeq (takeWord s) = .idle := by simpa using ha
  simp [contextStep, ha, hn, issue, hd, raiseInvalidCall_of_idle hi]

/-- With nothing left to issue a handler returns (R225) and a main flow idles (R246). -/
theorem contextStep_of_done {s : State} (ha : activeSeq s = .idle) (hn : nextWord s = none) :
    contextStep s = .next (if s.inHandler then handlerReturn s else s) := by
  simp only [contextStep, ha, hn]

theorem step_of_deliver {s : State} (hw : s.cfg.wf = true) (ht : turnOf s = .deliver) :
    step s = deliver (takeChoice s) := by rw [step_eq hw, ht]; rfl

theorem step_of_seq {s : State} (hw : s.cfg.wf = true) (ht : turnOf s = .seq) :
    step s = contextStep (takeChoice s) := by rw [step_eq hw, ht]; rfl

/-- On its turn an idle context issues its next word: the step is `exec` of the instruction it decodes to. -/
theorem step_of_instr {s : State} {p : PortWord} {i : Instr} (hw : s.cfg.wf = true) (ht : turnOf s = .seq)
    (ha : activeSeq s = .idle) (hn : nextWord s = some p) (hd : decode p.port p.word = .instr i) :
    step s = exec i (takeWord (takeChoice s)) := by
  rw [step_of_seq hw ht, contextStep_of_instr (by simpa using ha) (by simpa using hn) hd]

/-! ## A word placed as the next one -/

@[simp] theorem placeWord_cfg (p : PortWord) (s : State) : (placeWord p s).cfg = s.cfg := by simp [placeWord]

@[simp] theorem turnOf_placeWord (p : PortWord) (s : State) : turnOf (placeWord p s) = .seq := by
  simp [turnOf, nextChoice, placeWord, admitted]

@[simp] theorem activeSeq_placeWord (p : PortWord) (s : State) : activeSeq (placeWord p s) = .idle :=
  activeSeq_setActive .idle _

@[simp] theorem nextWord_placeWord (p : PortWord) (s : State) : nextWord (placeWord p s) = some p := by
  cases hh : s.inHandler <;> simp [nextWord, placeWord, activeFlow, hh]

/-- The step after a word is placed issues it. -/
theorem step_placeWord {s : State} {p : PortWord} {i : Instr} (hw : s.cfg.wf = true)
    (hd : decode p.port p.word = .instr i) :
    step (placeWord p s) = exec i (takeWord (takeChoice (placeWord p s))) :=
  step_of_instr (by simpa using hw) (turnOf_placeWord p s) (activeSeq_placeWord p s) (nextWord_placeWord p s) hd

/-- The table's reading of a 16-bit word is the decoder's on the command port. -/
theorem decode_of_decodeTableWord {w : Nat} {i : Instr} (h : decodeTableWord 16 w = some i) :
    decode .command (BitVec.ofNat 16 (w % 2 ^ 16)) = .instr i := by
  unfold decodeTableWord at h
  cases hd : decode .command (BitVec.ofNat 16 (w % 2 ^ 16)) with
  | instr j => rw [hd] at h; cases h; rfl
  | reserved r => rw [hd] at h; cases h

end Sys2Proof.Machine
end

section
/-! PROOFS. Which outcome a step can have (R9, R11, R17, R215): one lemma per function of the step that lists
its outcomes, the conditions under which the answer is a next state, and the configuration, which no function
changes (R10, R45). -/

namespace Sys2Proof.Machine

/-! ## Operations and primitives -/

/-- `exec` of a register-port instruction is a primitive: a register write, or none, and a response (R120). -/
theorem exec_eq_runPrimitive (i : Instr) (s : State) (h : portOf i = .register) :
    ∃ u r, exec i s = runPrimitive s u r := by
  cases i <;> cases h <;> exact ⟨_, _, rfl⟩

theorem runSteps_outcome (i : Instr) (ms : List Micro) (s : State) :
    (∃ s', runSteps i ms s = .next s') ∨ runSteps i ms s = .refused .contextBusy ∨
      runSteps i ms s = .refused .noSuchStep := by
  unfold runSteps
  split
  · split
    · exact .inl ⟨_, rfl⟩
    · exact .inr (.inr rfl)
  · split
    · split
      · exact .inl ⟨_, rfl⟩
      · exact .inr (.inr rfl)
    · exact .inr (.inl rfl)

theorem runPrimitive_outcome (s u : State) (r : Resp) :
    (∃ s', runPrimitive s u r = .next s') ∨ runPrimitive s u r = .refused .contextBusy := by
  unfold runPrimitive
  split <;> simp

/-- `exec` never faults, and refuses only outside the machine's own runs (R40, R250; log entry 16). -/
theorem exec_outcome (i : Instr) (s : State) :
    (∃ s', exec i s = .next s') ∨ exec i s = .refused .contextBusy ∨ exec i s = .refused .noSuchStep := by
  cases hp : portOf i with
  | command => rw [exec_eq_runSteps i s hp]; exact runSteps_outcome i _ s
  | register =>
    obtain ⟨u, r, e⟩ := exec_eq_runPrimitive i s hp
    rw [e]
    exact (runPrimitive_outcome s u r).imp_right .inl

/-- Every step list begins with `CHECK` (R160). -/
theorem stepsOf_zero (c : Config) {i : Instr} (h : portOf i = .command) : (stepsOf c i)[0]? = some .check := by
  cases i <;> cases h <;> rfl

/-- A register primitive has no step list (R120). -/
theorem stepsOf_register (c : Config) {i : Instr} (h : portOf i = .register) : stepsOf c i = [] := by
  cases i <;> cases h <;> rfl

/-- An instruction with a step list is one of the command port (R120). -/
theorem portOf_of_lt_length {c : Config} {i : Instr} {k : Nat} (h : k < (stepsOf c i).length) :
    portOf i = .command := by
  cases hp : portOf i with
  | command => rfl
  | register => simp [stepsOf_register c hp] at h

/-- An idle context can issue every instruction. -/
theorem exec_next_of_idle (i : Instr) {s : State} (ha : activeSeq s = .idle) : ∃ s', exec i s = .next s' := by
  cases hp : portOf i with
  | command =>
    rw [exec_eq_runSteps i s hp]
    exact ⟨_, runSteps_idle ha (stepsOf_zero s.cfg hp)⟩
  | register =>
    obtain ⟨u, r, e⟩ := exec_eq_runPrimitive i s hp
    exact ⟨respond r u, by simp [e, runPrimitive, ha]⟩

/-- A record that R40 allows can take its next step. -/
theorem exec_next_of_run {i : Instr} {k : Nat} {t : Tmp} {s : State} (ha : activeSeq s = .run i k t)
    (hk : seqOk s.cfg (.run i k t) = true) : ∃ s', exec i s = .next s' := by
  have hlt : k < (stepsOf s.cfg i).length := by simp_all [seqOk]
  exact ⟨_, exec_run (portOf_of_lt_length hlt) ha (List.getElem?_eq_getElem hlt)⟩

/-! ## The agents -/

/-- What an interrupt delivery can answer, by slot and policy (R221, R222). -/
theorem deliver_outcome (s : State) :
    (∃ s', deliver s = .next s') ∨
    (s.cb = 0 ∧ s.cfg.emptySlot = .fault ∧ deliver s = .fault .emptySlotDelivery) ∨
    (s.cb ≠ 0 ∧ (∀ q ∈ s.cfg.handlers, q.1 ≠ s.cb) ∧ deliver s = .refused .unknownHandler) := by
  unfold deliver
  split
  · split
    · exact .inr (.inl ⟨‹_›, ‹_›, rfl⟩)
    · exact .inl ⟨_, rfl⟩
  · split
    · exact .inr (.inr ⟨‹_›, handlerProgram_eq_none.1 ‹_›, rfl⟩)
    · exact .inl ⟨_, rfl⟩

/-- The turn of the active context is the `exec` of some instruction, from the context itself while it runs
and from the context with a word taken while it is idle, or a next state. -/
theorem contextStep_eq_exec_or_next (s : State) :
    (∃ i k t, activeSeq s = .run i k t ∧ contextStep s = exec i s) ∨
    (∃ i, activeSeq s = .idle ∧ contextStep s = exec i (takeWord s)) ∨
    (∃ s', contextStep s = .next s') := by
  cases ha : activeSeq s with
  | run i k t => exact .inl ⟨i, k, t, rfl, contextStep_of_run ha⟩
  | idle =>
    cases hn : nextWord s with
    | none => exact .inr (.inr ⟨_, contextStep_of_done ha hn⟩)
    | some p =>
      cases hd : decode p.port p.word with
      | instr i => exact .inr (.inl ⟨i, rfl, contextStep_of_instr ha hn hd⟩)
      | reserved r => exact .inr (.inr ⟨_, contextStep_of_reserved ha hn hd⟩)

theorem contextStep_outcome (s : State) :
    (∃ s', contextStep s = .next s') ∨ contextStep s = .refused .contextBusy ∨
      contextStep s = .refused .noSuchStep := by
  rcases contextStep_eq_exec_or_next s with ⟨i, _, _, _, e⟩ | ⟨i, _, e⟩ | h
  · rw [e]; exact exec_outcome i s
  · rw [e]; exact exec_outcome i (takeWord s)
  · exact .inl h

/-- Where the active record is one that R40 allows, its context's turn is never refused. -/
theorem contextStep_next {s : State} (hk : seqOk s.cfg (activeSeq s) = true) :
    ∃ s', contextStep s = .next s' := by
  rcases contextStep_eq_exec_or_next s with ⟨i, k, t, ha, e⟩ | ⟨i, ha, e⟩ | h
  · rw [e]; exact exec_next_of_run ha (ha ▸ hk)
  · rw [e]; exact exec_next_of_idle i (by simpa using ha)
  · exact h

/-- The invariant allows the active context's record (R40). -/
theorem seqOk_activeSeq {s : State} (h : s.Inv = true) : seqOk s.cfg (activeSeq s) = true := by
  simp only [State.Inv, Bool.and_eq_true] at h
  obtain ⟨⟨⟨⟨-, hMain⟩, hHnd⟩, -⟩, -⟩ := h
  unfold activeSeq
  split <;> assumption

/-! ## The step -/

/-- A step of a well-formed configuration is a delivery, or a turn of the active context, or answers a next
state. -/
theorem step_outcome {s : State} (hw : s.cfg.wf = true) :
    (turnOf s = .deliver ∧ step s = deliver (takeChoice s)) ∨
    (turnOf s = .seq ∧ step s = contextStep (takeChoice s)) ∨
    (turnOf s ≠ .deliver ∧ ∃ s', step s = .next s') := by
  rw [step_eq hw]
  cases turnOf s with
  | deliver => exact .inl ⟨rfl, rfl⟩
  | seq => exact .inr (.inl ⟨rfl, rfl⟩)
  | complete code rx => exact .inr (.inr ⟨nofun, _, rfl⟩)
  | stop => exact .inr (.inr ⟨nofun, _, rfl⟩)
  | reset => exact .inr (.inr ⟨nofun, _, rfl⟩)

/-- No step of a well-formed configuration is refused for its configuration. -/
theorem step_ne_illFormed {s : State} (hw : s.cfg.wf = true) : step s ≠ .refused .illFormedConfiguration := by
  rcases step_outcome hw with ⟨-, e⟩ | ⟨-, e⟩ | ⟨-, s', e⟩
  · rcases deliver_outcome (takeChoice s) with ⟨_, d⟩ | ⟨-, -, d⟩ | ⟨-, -, d⟩ <;> simp [e, d]
  · rcases contextStep_outcome (takeChoice s) with ⟨_, d⟩ | d | d <;> simp [e, d]
  · simp [e]

/-- Under the invariant every step but a delivery answers a next state (R17). -/
theorem step_next_of_not_deliver {s : State} (hw : s.cfg.wf = true) (hi : s.Inv = true)
    (ht : turnOf s ≠ .deliver) : ∃ s', step s = .next s' := by
  rcases step_outcome hw with ⟨h, -⟩ | ⟨-, e⟩ | ⟨-, h⟩
  · exact absurd h ht
  · rw [e]; exact contextStep_next (by simpa using seqOk_activeSeq hi)
  · exact h

/-! ## The configuration -/

/-- Well-formedness, in the words of R11. -/
theorem Config.wf_iff (c : Config) :
    c.wf = true ↔ (c.role = .responder ∨ 10 ≤ c.rate.toNat) ∧ 0x01 ≤ c.ownAddr.toNat ∧ c.ownAddr.toNat ≤ 0x77 := by
  cases h : c.role <;> simp [Config.wf, Config.rateOk, Config.addrOk, h]

theorem exec_cfg {i : Instr} {s s' : State} (h : exec i s = .next s') : s'.cfg = s.cfg := by
  rcases exec_cases h with ⟨_, u, _, hu, rfl⟩ | ⟨_, _, _, _, -, -, rfl⟩ | ⟨_, u, hu, rfl⟩
  · simpa using hu.cfg
  · simp
  · simpa using hu.cfg

theorem contextStep_cfg {s s' : State} (h : contextStep s = .next s') : s'.cfg = s.cfg := by
  rcases contextStep_cases h with ⟨_, _, _, -, he⟩ | ⟨-, _, _, -, -, he⟩ | ⟨-, _, _, -, -, rfl⟩ |
    ⟨-, -, -, rfl⟩ | ⟨-, -, -, rfl⟩
  · exact exec_cfg he
  · simpa using exec_cfg he
  · simp [raiseInvalidCall]
  · simp
  · rfl

theorem deliver_cfg {s s' : State} (h : deliver s = .next s') : s'.cfg = s.cfg := by
  rcases deliver_next h with ⟨-, -, rfl⟩ | ⟨-, _, -, rfl⟩ <;> rfl

@[simp] theorem engineComplete_cfg (c : Code5) (rx : Option Byte) (s : State) :
    (engineComplete c rx s).cfg = s.cfg := rfl

@[simp] theorem engineStop_cfg (s : State) : (engineStop s).cfg = s.cfg := rfl

@[simp] theorem resetEvent_cfg (s : State) : (resetEvent s).cfg = s.cfg := rfl

theorem step_cfg {s s' : State} (h : step s = .next s') : s'.cfg = s.cfg := by
  obtain ⟨-, hs⟩ := step_cases h
  rcases hs with ⟨-, hc⟩ | ⟨_, _, -, -, rfl⟩ | ⟨-, -, rfl⟩ | ⟨-, -, hd⟩ | ⟨-, rfl⟩
  · simpa using contextStep_cfg hc
  · simp
  · simp
  · simpa using deliver_cfg hd
  · simp

end Sys2Proof.Machine
end

section
/-! PROOFS. The statements that rest on `00_scope.md`. -/

namespace Sys2Proof.Machine

open Sys2Proof.Claims

/-- Settles O8: the refusal is the ill-formed branch of the step, and no agent gives it. -/
theorem illFormedConfigurationIsRefused : Obligations.IllFormedConfigurationIsRefused := by
  intro s
  rw [← Config.wf_iff]
  constructor
  · exact fun h hw => step_ne_illFormed hw h
  · intro hw
    simp [step, machineStep, hw]

/-- Settles O22, by the cases of a step. -/
theorem configurationIsImmutable : Obligations.ConfigurationIsImmutable := fun _ _ => step_cfg

/-- Settles O25: under the invariant a stop can only be a delivery's, whose outcomes are listed once. -/
theorem onlyADeliveryStopsTheMachine : Obligations.OnlyADeliveryStopsTheMachine := by
  intro s hw hi
  by_cases ht : turnOf s = .deliver
  · rcases deliver_outcome (takeChoice s) with ⟨s', e⟩ | ⟨hc, hp, e⟩ | ⟨hc, hu, e⟩ <;>
      rw [step_of_deliver hw ht, e]
    · exact ⟨nofun, nofun, fun _ => ⟨s', rfl⟩⟩
    · exact ⟨fun f hf => ⟨ht, hc, hp, by cases hf; rfl⟩, nofun, fun h => absurd ht h⟩
    · exact ⟨nofun, fun r hr => ⟨ht, hc, hu, by cases hr; rfl⟩, fun h => absurd ht h⟩
  · obtain ⟨s', e⟩ := step_next_of_not_deliver hw hi ht
    rw [e]
    exact ⟨nofun, nofun, fun _ => ⟨s', rfl⟩⟩

/-- Settles O6, by context. -/
theorem respondAndGotoTouchTheActiveContextOnly : Obligations.RespondAndGotoTouchTheActiveContextOnly :=
  fun _ r i k t =>
    ⟨fun h => ⟨respond_of_main h r, setActive_of_main h (.run i k t)⟩,
      fun h => ⟨respond_of_hnd h r, setActive_of_hnd h (.run i k t)⟩⟩

/-- Settles O7, by the cases of the active context's turn; a placed word is the case of an issued one. -/
theorem stepRunsTheDecodedInstruction : Obligations.StepRunsTheDecodedInstruction := by
  intro s hw
  refine ⟨fun ht => ⟨?_, ?_, ?_, ?_⟩, ?_⟩
  · intro p i ha hn hd
    exact step_of_instr hw ht ha hn hd
  · intro p r ha hn hd
    exact (step_of_seq hw ht).trans (contextStep_of_reserved ha hn hd)
  · intro hh ha hn
    rw [step_of_seq hw ht, contextStep_of_done (by simpa using ha) (by simpa using hn)]
    simp [hh]
  · intro i k t ha
    exact (step_of_seq hw ht).trans (contextStep_of_run ha)
  · intro w i hi
    exact ⟨step_placeWord hw (decode_of_decodeTableWord hi), by simp [State.withFetchWord]⟩

end Sys2Proof.Machine
end

section
/-! PROOFS. What one step leaves unchanged (R23, R34, R37 to R39, R223): the frame of the active context's turn,
whatever instruction it takes, and the callback slot. -/

namespace Sys2Proof.Machine

/-! ## The turn of the active context -/

/-- `s'` differs from `s` at most by what a turn of the active context may touch: its record and flow, the
slot, and the registers and latches as `SameOutside` has it. -/
structure ContextFrame (s s' : State) : Prop where
  sc5 : s'.stat.sc5 = s.stat.sc5
  inHandler : s'.inHandler = s.inHandler
  cfg : s'.cfg = s.cfg
  sched : s'.sched = s.sched
  tick : s'.tick = s.tick
  frozenMain : s.inHandler = true → s'.seqMain = s.seqMain ∧ s'.hostMain = s.hostMain
  frozenHnd : s.inHandler = false → s'.seqHnd = s.seqHnd ∧ s'.hostHnd = s.hostHnd
  noRaise : s'.ctrl.int = true → s.ctrl.int = true
  pend : s'.irqPend = true → s.irqPend = true ∧ s'.ctrl.int = s.ctrl.int
  phase : s'.phase = s.phase ∨ s'.phase = .idle
  enable : s'.ctrl.en = s.ctrl.en ∨ s'.ctrl.en = true ∨ s'.phase = .idle ∨ s.cfg.engine = .unconstrained

theorem ContextFrame.refl (s : State) : ContextFrame s s := by constructor <;> simp

theorem SameOutside.contextFrame {s u : State} (h : SameOutside s u) : ContextFrame s u where
  sc5 := h.sc5
  inHandler := h.inHandler
  cfg := h.cfg
  sched := h.sched
  tick := h.tick
  frozenMain _ := ⟨h.seqMain, h.hostMain⟩
  frozenHnd _ := ⟨h.seqHnd, h.hostHnd⟩
  noRaise := h.noRaise
  pend := h.pend
  phase := h.phase.imp_right And.left
  enable := h.enable

/-- Moving the active record stays inside the frame. -/
theorem ContextFrame.setActive {s u : State} (h : ContextFrame s u) (q : Seq) :
    ContextFrame s (setActive q u) := by
  obtain ⟨sc5, inHandler, cfg, sched, tick, frozenMain, frozenHnd, noRaise, pend, phase, enable⟩ := h
  constructor <;> simp_all

/-- Writing the active flow stays inside the frame. -/
theorem ContextFrame.setFlow {s u : State} (h : ContextFrame s u) (f : Flow) :
    ContextFrame s (setFlow f u) := by
  obtain ⟨sc5, inHandler, cfg, sched, tick, frozenMain, frozenHnd, noRaise, pend, phase, enable⟩ := h
  constructor <;> simp_all

theorem ContextFrame.goto {s u : State} (h : ContextFrame s u) (i : Instr) (k : Nat) (t : Tmp) :
    ContextFrame s (goto i k t u) := h.setActive _

theorem ContextFrame.respond {s u : State} (h : ContextFrame s u) (r : Resp) :
    ContextFrame s (respond r u) := (h.setActive _).setFlow _

/-- A frame from the state whose word was handed over is one from the state before. -/
theorem ContextFrame.of_takeWord {s s' : State} (h : ContextFrame (takeWord s) s') : ContextFrame s s' := by
  obtain ⟨sc5, inHandler, cfg, sched, tick, frozenMain, frozenHnd, noRaise, pend, phase, enable⟩ := h
  constructor <;> simp_all

theorem exec_contextFrame {i : Instr} {s s' : State} (h : exec i s = .next s') : ContextFrame s s' := by
  rcases exec_cases h with ⟨t, u, k, hu, rfl⟩ | ⟨_, _, c, t, rfl, -, rfl⟩ | ⟨r, u, hu, rfl⟩
  · exact hu.contextFrame.goto i k t
  · have hc : ContextFrame s { s with cb := c } := by constructor <;> simp
    exact hc.goto _ 2 t
  · exact hu.contextFrame.respond r

/-- But for the return from the handler, a turn of the active context stays inside its frame (R39, R223). -/
theorem contextStep_contextFrame {s s' : State} (h : contextStep s = .next s') :
    ContextFrame s s' ∨
      (activeSeq s = .idle ∧ nextWord s = none ∧ s.inHandler = true ∧ s' = handlerReturn s) := by
  rcases contextStep_cases h with ⟨_, _, _, -, he⟩ | ⟨-, _, _, -, -, he⟩ | ⟨-, _, _, -, -, rfl⟩ | hr |
    ⟨-, -, -, rfl⟩
  · exact .inl (exec_contextFrame he)
  · exact .inl (exec_contextFrame he).of_takeWord
  · exact .inl ((ContextFrame.refl (takeWord s)).respond .invalidCall).of_takeWord
  · exact .inr hr
  · exact .inl (ContextFrame.refl _)

/-- A step is a completion event, or raises neither the flag nor the latch (R23, R38). -/
theorem step_complete_or_noRaise {s s' : State} (h : step s = .next s') :
    (∃ c rx, turnOf s = .complete c rx) ∨
      ((s'.ctrl.int = true → s.ctrl.int = true) ∧ (s'.irqPend = true → s.irqPend = true)) := by
  obtain ⟨-, hs⟩ := step_cases h
  rcases hs with ⟨-, hc⟩ | ⟨c, rx, ht, -, -⟩ | ⟨-, -, rfl⟩ | ⟨-, -, hd⟩ | ⟨-, rfl⟩
  · rcases contextStep_contextFrame hc with hf | ⟨-, -, -, rfl⟩
    · exact .inr ⟨hf.noRaise, fun hp => (hf.pend hp).1⟩
    · exact .inr ⟨id, id⟩
  · exact .inl ⟨c, rx, ht⟩
  · exact .inr ⟨id, id⟩
  · rcases deliver_next hd with ⟨-, -, rfl⟩ | ⟨-, _, -, rfl⟩ <;> exact .inr ⟨id, nofun⟩
  · exact .inr ⟨nofun, nofun⟩

/-! ## The callback slot -/

/-- Only `SETCB`'s write step changes the slot (R37, R184). -/
theorem exec_cb {i : Instr} {s s' : State} (h : exec i s = .next s') :
    s'.cb = s.cb ∨ ∃ sv dv c t, i = .setcb sv dv c ∧ activeSeq s = .run i 1 t ∧ s'.cb = c := by
  rcases exec_cases h with ⟨_, u, _, hu, rfl⟩ | ⟨sv, dv, c, t, hi, ha, rfl⟩ | ⟨_, u, hu, rfl⟩
  · exact .inl (by simpa using hu.cb)
  · exact .inr ⟨sv, dv, c, t, hi, ha, by simp⟩
  · exact .inl (by simpa using hu.cb)

theorem contextStep_cb {s s' : State} (h : contextStep s = .next s') :
    s'.cb = s.cb ∨ ∃ sv dv c t, activeSeq s = .run (.setcb sv dv c) 1 t ∧ s'.cb = c := by
  rcases contextStep_cases h with ⟨i, k, t, -, he⟩ | ⟨ha, _, i, -, -, he⟩ | ⟨-, _, _, -, -, rfl⟩ |
    ⟨-, -, -, rfl⟩ | ⟨-, -, -, rfl⟩
  · rcases exec_cb he with hc | ⟨sv, dv, c, t, rfl, hr, hc⟩
    · exact .inl hc
    · exact .inr ⟨sv, dv, c, t, hr, hc⟩
  · rcases exec_cb he with hc | ⟨_, _, _, _, -, hr, -⟩
    · exact .inl (by simpa using hc)
    · simp [ha] at hr
  · exact .inl (by simp [raiseInvalidCall])
  · exact .inl rfl
  · exact .inl rfl

theorem deliver_stat {s s' : State} (h : deliver s = .next s') : s'.stat = s.stat := by
  rcases deliver_next h with ⟨-, -, rfl⟩ | ⟨-, _, -, rfl⟩ <;> rfl

theorem deliver_cb {s s' : State} (h : deliver s = .next s') : s'.cb = s.cb := by
  rcases deliver_next h with ⟨-, -, rfl⟩ | ⟨-, _, -, rfl⟩ <;> rfl

/-- Of all steps but a reset, only `SETCB`'s write step changes the slot (R37). -/
theorem step_cb {s s' : State} (h : step s = .next s') (hr : turnOf s ≠ .reset) :
    s'.cb = s.cb ∨ (turnOf s = .seq ∧ ∃ sv dv c t, activeSeq s = .run (.setcb sv dv c) 1 t ∧ s'.cb = c) := by
  obtain ⟨-, hs⟩ := step_cases h
  rcases hs with ⟨ht, hc⟩ | ⟨_, _, -, -, rfl⟩ | ⟨-, -, rfl⟩ | ⟨-, -, hd⟩ | ⟨ht, -⟩
  · exact (contextStep_cb hc).imp_right fun hw => ⟨ht, hw⟩
  · exact .inl rfl
  · exact .inl rfl
  · exact .inl (deliver_cb hd :)
  · exact absurd ht hr

/-- A `SETCB` whose record R40 allows has passed its check: it registers a reference (R160). -/
theorem setcb_ne_zero_of_seqOk {c : Config} {sv dv : Bool} {h : Byte} {k : Nat} {t : Tmp}
    (hk : seqOk c (.run (.setcb sv dv h) k t) = true) : h ≠ 0#8 := by
  simp only [seqOk, contractOk, Bool.and_eq_true, decide_eq_true_eq] at hk
  obtain ⟨⟨hne, -⟩, -⟩ := hk
  exact hne

/-- A turn of the active context does not empty the slot, where its record is one that R40 allows. -/
theorem contextStep_cb_ne_zero {s s' : State} (h : contextStep s = .next s')
    (hk : seqOk s.cfg (activeSeq s) = true) (hc : s.cb ≠ 0#8) : s'.cb ≠ 0#8 := by
  rcases contextStep_cb h with e | ⟨sv, dv, c, t, ha, e⟩
  · rwa [e]
  · rw [e]
    exact setcb_ne_zero_of_seqOk (ha ▸ hk)

end Sys2Proof.Machine
end

section
/-! PROOFS. Every step keeps the invariant (R28, R37 to R41): the invariant by parts, the active record along a
micro-step, and each agent's step in turn. -/

namespace Sys2Proof.Machine

/-! ## The invariant by parts -/

/-- The clauses of `State.Inv`, by name. -/
structure InvParts (s : State) : Prop where
  pend : s.irqPend = true → s.ctrl.int = true
  outside : s.inHandler = false → s.seqHnd = .idle ∧ s.hostHnd.prog = []
  registered : s.inHandler = true → s.cb ≠ 0#8
  mainOk : seqOk s.cfg s.seqMain = true
  hndOk : seqOk s.cfg s.seqHnd = true
  disabled : s.ctrl.en = false → s.phase = .idle
  unconstrained : s.cfg.engine = .unconstrained → s.phase = .idle

theorem inv_iff (s : State) : s.Inv = true ↔ InvParts s := by
  have engine : s.cfg.engine = .nominal ∨ s.phase = .idle ↔
      (s.cfg.engine = .unconstrained → s.phase = .idle) := by
    rcases engine_cases s.cfg.engine with h | h <;> simp [h]
  simp only [State.Inv, Bool.and_eq_true, Bool.or_eq_true, decide_eq_true_eq, Bool.not_eq_true', engine]
  constructor
  · rintro ⟨⟨⟨⟨⟨⟨pend, outside⟩, registered⟩, mainOk⟩, hndOk⟩, disabled⟩, unconstrained⟩
    constructor <;> grind
  · rintro ⟨pend, outside, registered, mainOk, hndOk, disabled, unconstrained⟩
    grind

/-! ## The active record -/

/-- A micro-step that ends its operation is a response. -/
theorem microStep_of_responds {m : Micro} (h : responds m = true) (i : Instr) (k : Nat) (t : Tmp) (s : State) :
    ∃ r, microStep i k t m s = respond r s := by
  cases m with
  | respondOk => exact ⟨_, rfl⟩
  | respondStatus d => exact ⟨_, rfl⟩
  | receive d => simp only [microStep, receiveStep]; split <;> exact ⟨_, rfl⟩
  | check | memWrite | setBit | clrBit | wrBit | wait | readStat | storeCb => cases h

/-- A step of a list, the check or one after a check that held, leaves a record that R40 allows. -/
theorem microStep_seqOk {i : Instr} {k : Nat} {t : Tmp} {m : Micro} {s : State}
    (hm : (stepsOf s.cfg i)[k]? = some m) (hc : m = .check ∨ contractOk i = true ∧ 1 ≤ k) :
    seqOk s.cfg (activeSeq (microStep i k t m s)) = true := by
  rcases steps_end_with_response hm with hlt | hr
  · rcases microStep_cases i k t m s with ⟨t', u, -, e, hck⟩ | ⟨c, rfl, e⟩ | ⟨t', rfl, -, e⟩ | ⟨r, e⟩ <;> rw [e]
    · have hok : contractOk i = true := hc.elim hck And.left
      simp [seqOk, hok, hlt]
    · obtain ⟨hok, -⟩ := hc.resolve_left nofun
      simp [seqOk, hok, hlt]
    · obtain ⟨hok, hk⟩ := hc.resolve_left nofun
      simp [seqOk, hok, hk, Nat.lt_of_succ_lt hlt]
    · simp [seqOk]
  · obtain ⟨r, e⟩ := microStep_of_responds hr i k t s
    simp [e, seqOk]

/-- One step of an instruction leaves the active context a record that R40 allows. -/
theorem exec_seqOk {i : Instr} {s s' : State} (h : exec i s = .next s')
    (hk : seqOk s.cfg (activeSeq s) = true) : seqOk s.cfg (activeSeq s') = true := by
  cases hp : portOf i with
  | register =>
    obtain ⟨-, r, u, -, rfl⟩ := exec_primitive_next hp h
    simp [seqOk]
  | command =>
    rw [exec_eq_runSteps i s hp] at h
    rcases runSteps_next h with ⟨m, -, hm, rfl⟩ | ⟨k, t, m, ha, hm, rfl⟩
    · have hcheck : m = .check := Option.some.inj (hm.symm.trans (stepsOf_zero s.cfg hp))
      exact microStep_seqOk hm (.inl hcheck)
    · simp only [ha, seqOk, Bool.and_eq_true, decide_eq_true_eq] at hk
      obtain ⟨⟨hok, hk1⟩, -⟩ := hk
      exact microStep_seqOk hm (.inr ⟨hok, hk1⟩)

theorem contextStep_seqOk {s s' : State} (h : contextStep s = .next s') (hr : s'.inHandler = s.inHandler)
    (hk : seqOk s.cfg (activeSeq s) = true) : seqOk s.cfg (activeSeq s') = true := by
  rcases contextStep_cases h with ⟨_, _, _, -, he⟩ | ⟨-, _, _, -, -, he⟩ | ⟨-, _, _, -, -, rfl⟩ |
    ⟨-, -, hh, rfl⟩ | ⟨-, -, -, rfl⟩
  · exact exec_seqOk he hk
  · simpa using exec_seqOk he (by simpa using hk)
  · simp [raiseInvalidCall, seqOk]
  · simp [hh] at hr
  · exact hk

/-! ## The agents -/

/-- A turn of the active context inside its frame keeps the invariant, where it leaves that context an allowed
record and a filled slot filled. -/
theorem InvParts.of_contextFrame {s s' : State} (hi : InvParts s) (hf : ContextFrame s s')
    (hk : seqOk s.cfg (activeSeq s') = true) (hc : s.cb ≠ 0#8 → s'.cb ≠ 0#8) : InvParts s' where
  pend h := by
    obtain ⟨hp, e⟩ := hf.pend h
    exact e.trans (hi.pend hp)
  outside h := by
    have hs : s.inHandler = false := hf.inHandler.symm.trans h
    obtain ⟨eSeq, eFlow⟩ := hf.frozenHnd hs
    rw [eSeq, eFlow]
    exact hi.outside hs
  registered h := hc (hi.registered (hf.inHandler.symm.trans h))
  mainOk := by
    rw [hf.cfg]
    cases hh : s'.inHandler with
    | false => simpa [activeSeq, hh] using hk
    | true => rw [(hf.frozenMain (hf.inHandler.symm.trans hh)).1]; exact hi.mainOk
  hndOk := by
    rw [hf.cfg]
    cases hh : s'.inHandler with
    | true => simpa [activeSeq, hh] using hk
    | false => rw [(hf.frozenHnd (hf.inHandler.symm.trans hh)).1]; exact hi.hndOk
  disabled h := by
    have keep : s.phase = .idle → s'.phase = .idle := fun hp => hf.phase.elim (·.trans hp) id
    rcases hf.enable with e | e | e | e
    · exact keep (hi.disabled (e.symm.trans h))
    · exact absurd (h.symm.trans e) nofun
    · exact e
    · exact keep (hi.unconstrained e)
  unconstrained h := hf.phase.elim (·.trans (hi.unconstrained (hf.cfg ▸ h))) id

/-- The return needs that the handler's program has ended: it is the flow with nothing left to issue (R225). -/
theorem InvParts.handlerReturn {s : State} (hi : InvParts s) (hh : s.inHandler = true)
    (hn : nextWord s = none) : InvParts (handlerReturn s) where
  pend := hi.pend
  outside _ := ⟨rfl, by simpa [nextWord, activeFlow, hh] using hn⟩
  registered := nofun
  mainOk := hi.mainOk
  hndOk := rfl
  disabled := hi.disabled
  unconstrained := hi.unconstrained

theorem InvParts.contextStep {s s' : State} (hi : InvParts s) (h : contextStep s = .next s') : InvParts s' := by
  have hk : seqOk s.cfg (activeSeq s) = true := seqOk_activeSeq ((inv_iff s).2 hi)
  rcases contextStep_contextFrame h with hf | ⟨-, hn, hh, rfl⟩
  · exact hi.of_contextFrame hf (contextStep_seqOk h hf.inHandler hk) (contextStep_cb_ne_zero h hk)
  · exact hi.handlerReturn hh hn

theorem InvParts.deliver {s s' : State} (hi : InvParts s) (h : deliver s = .next s') : InvParts s' := by
  rcases deliver_next h with ⟨-, -, rfl⟩ | ⟨hc, p, -, rfl⟩
  · exact { hi with pend := nofun }
  · exact { hi with pend := nofun, outside := nofun, registered := fun _ => hc, hndOk := rfl }

/-- The unconstrained engine leaves the phase alone (R192). -/
theorem completePhase_unconstrained {s : State} (h : s.cfg.engine = .unconstrained) (c : Code5)
    (rx : Option Byte) : completePhase s c rx = (s.phase, s.draws) := by simp [completePhase, h]

/-- The engine acts only while it is enabled (R191). -/
theorem InvParts.engineComplete {s : State} (hi : InvParts s) (he : s.ctrl.en = true) (c : Code5)
    (rx : Option Byte) : InvParts (engineComplete c rx s) :=
  { hi with
    pend := fun _ => rfl
    disabled := fun h => absurd (he.symm.trans h) nofun
    unconstrained := fun (h : s.cfg.engine = .unconstrained) =>
      (congrArg Prod.fst (completePhase_unconstrained h c rx)).trans (hi.unconstrained h) }

theorem InvParts.engineStop {s : State} (hi : InvParts s) (he : s.ctrl.en = true) : InvParts (engineStop s) :=
  { hi with
    disabled := fun h => absurd (he.symm.trans h) nofun
    unconstrained := fun (h : s.cfg.engine = .unconstrained) => by
      simp [Machine.engineStop, h, hi.unconstrained h] }

theorem invParts_resetEvent (s : State) : InvParts (resetEvent s) where
  pend := nofun
  outside _ := ⟨rfl, rfl⟩
  registered := nofun
  mainOk := rfl
  hndOk := rfl
  disabled _ := rfl
  unconstrained _ := rfl

/-- The step's choice is no part of the invariant. -/
theorem InvParts.takeChoice {s : State} (hi : InvParts s) : InvParts (takeChoice s) := { hi with }

/-! ## The step -/

theorem en_of_engineGuard {s : State} (h : engineGuard s = true) : s.ctrl.en = true := by
  rw [engineGuard, Bool.and_eq_true] at h
  exact h.1

theorem engineGuard_of_completeAdmitted {s : State} {c : Code5} {rx : Option Byte}
    (h : completeAdmitted s c rx = true) : engineGuard s = true := by
  rw [completeAdmitted, Bool.and_eq_true] at h
  exact h.1

theorem engineGuard_of_stopAdmitted {s : State} (h : stopAdmitted s = true) : engineGuard s = true := by
  rw [stopAdmitted, Bool.and_eq_true] at h
  exact h.1

theorem InvParts.step {s s' : State} (hi : InvParts s) (h : step s = .next s') : InvParts s' := by
  obtain ⟨-, hs⟩ := step_cases h
  rcases hs with ⟨-, hc⟩ | ⟨c, rx, -, hg, rfl⟩ | ⟨-, hg, rfl⟩ | ⟨-, -, hd⟩ | ⟨-, rfl⟩
  · exact hi.takeChoice.contextStep hc
  · exact hi.takeChoice.engineComplete (en_of_engineGuard (engineGuard_of_completeAdmitted hg)) c rx
  · exact hi.takeChoice.engineStop (en_of_engineGuard (engineGuard_of_stopAdmitted hg))
  · exact hi.takeChoice.deliver hd
  · exact invParts_resetEvent _

end Sys2Proof.Machine
end

section
/-! PROOFS. The reset event and the reserved bits (R29, R33, R46, R240). -/

namespace Sys2Proof.Machine

/-- A reset event is admitted at any instant (R240). -/
theorem step_of_nextChoice_reset {s : State} (hw : s.cfg.wf = true) (hn : nextChoice s = .reset) :
    step s = .next (resetEvent (takeChoice s)) := by
  have ht : turnOf s = .reset := by simp [turnOf, hn, admitted]
  rw [step_eq hw, ht]
  rfl

theorem readReg_ctrl_of_reset {s : State} (h : s.ctrl = Ctrl.reset) : readReg .ctrl s = 0x00#8 := by
  simp only [readReg, h]
  decide

/-- `RSV2` reads 0 (R33). -/
theorem readReg_stat_rsv2 (s : State) : (readReg .stat s).getLsbD 2 = false := by
  have key : ∀ (c : Code5) (p : BitVec 2), (c ++ 0#1 ++ p : Byte).getLsbD 2 = false := by decide
  exact key s.stat.sc5 s.stat.ps

end Sys2Proof.Machine
end

section
/-! PROOFS. What one step of each instruction writes (R120 to R126, R130 to R153, R180 to R184): the bits a
micro-step writes, what it then changes, and the bits the step list of each operation writes. -/

namespace Sys2Proof.Machine

/-! ## What a micro-step writes -/

/-- The micro-step writes bit `n` of the register `r`: a byte write writes every bit of its register. -/
def writes : Micro → Reg → BitIx → Prop
  | .memWrite r' _, r, _ => r = r'
  | .setBit r' n', r, n | .clrBit r' n', r, n | .wrBit r' n' _, r, n => r = r' ∧ n = n'
  | .check, _, _ | .wait, _, _ | .readStat, _, _ | .respondOk, _, _ | .respondStatus _, _, _
  | .receive _, _, _ | .storeCb _, _, _ => False

/-- The micro-step writes a 1 to the completion flag, which clears it (R23, R67). -/
def clears : Micro → Prop
  | .memWrite r v => r = .ctrl ∧ v.getLsbD 7 = true
  | .setBit r n => r = .ctrl ∧ n = 7#3
  | .wrBit r n b => r = .ctrl ∧ n = 7#3 ∧ b = true
  | .clrBit _ _ | .check | .wait | .readStat | .respondOk | .respondStatus _ | .receive _ | .storeCb _ => False

/-- From `s` to `s'` the registers, latches and phase change only where a write of the bits `w` changes them,
and the flag and its latch only to 0 and by a write that clears them. -/
structure OnlyWritten (w : Reg → BitIx → Prop) (clear : Prop) (s s' : State) : Prop where
  oaddr : s'.oaddr ≠ s.oaddr → ∃ n, w .oaddr n
  brg : s'.brg ≠ s.brg → ∃ n, w .brg n
  ps : s'.stat.ps ≠ s.stat.ps → ∃ n, w .stat n
  data : s'.data ≠ s.data ∨ s'.ctrl.wc ≠ s.ctrl.wc ∨ s'.draws ≠ s.draws → ∃ n, w .data n
  ea : s'.ctrl.ea ≠ s.ctrl.ea → w .ctrl 6#3
  ie : s'.ctrl.ie ≠ s.ctrl.ie → w .ctrl 0#3
  enable : s'.ctrl.en ≠ s.ctrl.en ∨ s'.phase ≠ s.phase → w .ctrl 2#3
  flag : s'.ctrl.int ≠ s.ctrl.int ∨ s'.irqPend ≠ s.irqPend →
    s'.ctrl.int = false ∧ s'.irqPend = false ∧ clear
  request : s'.ctrl.sta ≠ s.ctrl.sta ∨ s'.ctrl.sto ≠ s.ctrl.sto → w .ctrl 4#3 ∨ w .ctrl 5#3

theorem OnlyWritten.refl (w : Reg → BitIx → Prop) (clear : Prop) (s : State) : OnlyWritten w clear s s := by
  constructor <;> simp

section

variable {w : Reg → BitIx → Prop} {clear : Prop} {s u : State}

theorem OnlyWritten.mono {w' : Reg → BitIx → Prop} {clear' : Prop} (h : OnlyWritten w clear s u)
    (hw : ∀ r n, w r n → w' r n) (hc : clear → clear') : OnlyWritten w' clear' s u where
  oaddr e := (h.oaddr e).imp (hw _)
  brg e := (h.brg e).imp (hw _)
  ps e := (h.ps e).imp (hw _)
  data e := (h.data e).imp (hw _)
  ea e := hw _ _ (h.ea e)
  ie e := hw _ _ (h.ie e)
  enable e := hw _ _ (h.enable e)
  flag e := (h.flag e).imp_right (And.imp_right hc)
  request e := (h.request e).imp (hw _ _) (hw _ _)

theorem OnlyWritten.goto (h : OnlyWritten w clear s u) (i : Instr) (k : Nat) (t : Tmp) :
    OnlyWritten w clear s (goto i k t u) := by
  obtain ⟨oaddr, brg, ps, data, ea, ie, enable, flag, request⟩ := h
  constructor <;> simpa

theorem OnlyWritten.respond (h : OnlyWritten w clear s u) (r : Resp) : OnlyWritten w clear s (respond r u) := by
  obtain ⟨oaddr, brg, ps, data, ea, ie, enable, flag, request⟩ := h
  constructor <;> simpa

theorem dataWrite_onlyWritten (v : Byte) (s : State) (hw : ∃ n, w .data n) :
    OnlyWritten w clear s (dataWrite v s) := by
  constructor <;> simp [hw]

theorem storeCtrlBit_onlyWritten {n : BitIx} (b : Bool) (s : State) (hw : w .ctrl n)
    (hc : n = 7#3 → b = true → clear) : OnlyWritten w clear s (storeCtrlBit n b s) := by
  rcases storeCtrlBit_cases n b s with ⟨rfl, hb, e⟩ | ⟨-, e⟩ | ⟨rfl, e⟩ | ⟨rfl, e⟩ | ⟨rfl, e⟩ | ⟨rfl, e⟩ |
    ⟨rfl, e⟩ <;> rw [e]
  · constructor <;> simp [hc rfl hb]
  · exact OnlyWritten.refl w clear s
  all_goals constructor <;> simp_all

theorem storeBit_onlyWritten {r : Reg} {n : BitIx} (b : Bool) (s : State) (hw : w r n)
    (hc : r = .ctrl → n = 7#3 → b = true → clear) : OnlyWritten w clear s (storeBit r n b s) := by
  cases r with
  | ctrl => exact storeCtrlBit_onlyWritten b s hw (hc rfl)
  | data => exact dataWrite_onlyWritten _ s ⟨n, hw⟩
  | oaddr => constructor <;> simp [storeBit, Exists.intro n hw]
  | stat =>
    simp only [storeBit]
    split
    · constructor <;> simp [Exists.intro n hw]
    · exact OnlyWritten.refl w clear s
  | brg => constructor <;> simp [storeBit, Exists.intro n hw]

theorem wrBit_onlyWritten {r : Reg} {n : BitIx} (b : Bool) (s : State) (hw : w r n)
    (hc : r = .ctrl → n = 7#3 → b = true → clear) : OnlyWritten w clear s (wrBit r n b s) := by
  cases b
  · exact storeBit_onlyWritten false s hw hc
  · exact storeBit_onlyWritten true s hw hc

theorem memWrite_onlyWritten {r : Reg} (v : Byte) (s : State) (hw : ∀ n, w r n)
    (hc : r = .ctrl → v.getLsbD 7 = true → clear) : OnlyWritten w clear s (memWrite r v s) := by
  cases r with
  | ctrl =>
    rw [memWrite_ctrl]
    constructor
    case flag => cases h : v.getLsbD 7 <;> simp [hc rfl, h]
    all_goals simp [hw]
  | data => exact dataWrite_onlyWritten v s ⟨0, hw 0⟩
  | oaddr => rw [memWrite_oaddr]; constructor <;> simp [hw]
  | stat => rw [memWrite_stat]; constructor <;> simp [hw]
  | brg => rw [memWrite_brg]; constructor <;> simp [hw]

end

/-- The register effect of a micro-step changes only what the micro-step writes. -/
theorem effect_onlyWritten (m : Micro) (s : State) : OnlyWritten (writes m) (clears m) s (effect m s) := by
  cases m with
  | memWrite r v => exact memWrite_onlyWritten v s (fun _ => rfl) fun hr hv => ⟨hr, hv⟩
  | setBit r n => exact storeBit_onlyWritten true s ⟨rfl, rfl⟩ fun hr hn _ => ⟨hr, hn⟩
  | clrBit r n => exact storeBit_onlyWritten false s ⟨rfl, rfl⟩ nofun
  | wrBit r n b => exact wrBit_onlyWritten b s ⟨rfl, rfl⟩ fun hr hn hb => ⟨hr, hn, hb⟩
  | storeCb h => constructor <;> simp [effect]
  | check | wait | readStat | respondOk | respondStatus | receive => exact OnlyWritten.refl _ _ s

/-- A micro-step is its register effect, followed by a move of the active record or a response. -/
theorem microStep_eq_effect (i : Instr) (k : Nat) (t : Tmp) (m : Micro) (s : State) :
    (∃ k' t', microStep i k t m s = goto i k' t' (effect m s)) ∨
      ∃ r, microStep i k t m s = respond r (effect m s) := by
  cases m with
  | check => simp only [microStep]; split; exacts [.inl ⟨_, _, rfl⟩, .inr ⟨_, rfl⟩]
  | wait => simp only [microStep, pollFlag]; split <;> exact .inl ⟨_, _, rfl⟩
  | receive d => simp only [microStep, receiveStep]; split <;> exact .inr ⟨_, rfl⟩
  | respondOk | respondStatus => exact .inr ⟨_, rfl⟩
  | memWrite | setBit | clrBit | wrBit | readStat | storeCb => exact .inl ⟨_, _, rfl⟩

theorem microStep_onlyWritten (i : Instr) (k : Nat) (t : Tmp) (m : Micro) (s : State) :
    OnlyWritten (writes m) (clears m) s (microStep i k t m s) := by
  rcases microStep_eq_effect i k t m s with ⟨k', t', e⟩ | ⟨r, e⟩ <;> rw [e]
  · exact (effect_onlyWritten m s).goto i k' t'
  · exact (effect_onlyWritten m s).respond r

/-! ## What an instruction writes -/

/-- The bits the step list of an operation writes, one case per step list. -/
def operationWrites : Instr → Reg → BitIx → Prop
  | .init _ _ _, r, n => r = .oaddr ∨ r = .stat ∨ r = .brg ∨ (r = .ctrl ∧ n = 2#3)
  | .start _ _ _, r, n | .rstart _ _ _, r, n | .stop _ _ _, r, n =>
    r = .ctrl ∧ (n = 4#3 ∨ n = 5#3 ∨ n = 7#3)
  | .slaw _ _ _, r, n | .slar _ _ _, r, n | .mtx _ _ _, r, n | .stx _ _ _, r, n =>
    r = .data ∨ (r = .ctrl ∧ (n = 4#3 ∨ n = 5#3 ∨ n = 7#3))
  | .mrx _ _ _, r, n | .srx _ _ _, r, n => r = .ctrl ∧ (n = 4#3 ∨ n = 5#3 ∨ n = 6#3 ∨ n = 7#3)
  | .swait _ _ _, r, n => r = .ctrl ∧ (n = 4#3 ∨ n = 5#3 ∨ n = 6#3)
  | .clrf _ _ _, r, n => r = .ctrl ∧ n = 7#3
  | .ien _ _ _, r, n | .idis _ _ _, r, n => r = .ctrl ∧ n = 0#3
  | .setcb _ _ _, _, _ | .rd _ _, _, _ | .wr _ _, _, _ | .setb _ _, _, _ | .clrb _ _, _, _
  | .wrb _ _ _, _, _ | .getb _ _, _, _ => False

theorem operationWrites_of_mem_stepsOf (c : Config) (i : Instr) :
    ∀ m ∈ stepsOf c i, ∀ r n, writes m r n → operationWrites i r n := by
  cases i <;>
    simp +contextual [stepsOf, initSteps, startSteps, rstartSteps, slawSteps, slarSteps, mtxSteps, mrxSteps,
      stopSteps, swaitSteps, srxSteps, stxSteps, clrfSteps, ienSteps, idisSteps, setcbSteps, beginCond, xferByte,
      writes, operationWrites]

/-- A write that clears the flag writes its bit. -/
theorem writes_of_clears {m : Micro} (h : clears m) : writes m .ctrl 7#3 := by
  cases m with
  | memWrite r v => exact h.1.symm
  | setBit r n => exact ⟨h.1.symm, h.2.symm⟩
  | wrBit r n b => exact ⟨h.1.symm, h.2.1.symm⟩
  | clrBit | check | wait | readStat | respondOk | respondStatus | receive | storeCb => exact h.elim

/-- The instruction writes bit `n` of the register `r`: by its step list, or as one of the four writing
primitives. -/
def instrWrites (i : Instr) (r : Reg) (n : BitIx) : Prop :=
  operationWrites i r n ∨ (∃ v, i = .wr r v) ∨ i = .setb r n ∨ i = .clrb r n ∨ ∃ b, i = .wrb r n b

/-- The instruction writes a 1 to the completion flag. -/
def instrClears (i : Instr) : Prop :=
  operationWrites i .ctrl 7#3 ∨ (∃ v, i = .wr .ctrl v ∧ v.getLsbD 7 = true) ∨ i = .setb .ctrl 7#3 ∨
    i = .wrb .ctrl 7#3 true

theorem runPrimitive_next {s u s' : State} {r : Resp} (h : runPrimitive s u r = .next s') : s' = respond r u := by
  unfold runPrimitive at h
  split at h <;> cases h
  rfl

/-- A step of an operation changes only what its step list writes. -/
theorem exec_command_onlyWritten {i : Instr} {s s' : State} (hp : portOf i = .command)
    (h : exec i s = .next s') : OnlyWritten (instrWrites i) (instrClears i) s s' := by
  rw [exec_eq_runSteps i s hp] at h
  obtain ⟨k, t, m, hm, rfl⟩ : ∃ k t m, m ∈ stepsOf s.cfg i ∧ s' = microStep i k t m s := by
    rcases runSteps_next h with ⟨m, -, hm, e⟩ | ⟨k, t, m, -, hm, e⟩
    · exact ⟨0, _, m, List.mem_of_getElem? hm, e⟩
    · exact ⟨k, t, m, List.mem_of_getElem? hm, e⟩
  have hw := operationWrites_of_mem_stepsOf s.cfg i m hm
  exact (microStep_onlyWritten i k t m s).mono (fun r n h => .inl (hw r n h))
    fun h => .inl (hw _ _ (writes_of_clears h))

/-- A step of an instruction changes only what the instruction writes. -/
theorem exec_onlyWritten {i : Instr} {s s' : State} (h : exec i s = .next s') :
    OnlyWritten (instrWrites i) (instrClears i) s s' := by
  cases hp : portOf i with
  | command => exact exec_command_onlyWritten hp h
  | register =>
    cases i with
    | rd r a => rw [runPrimitive_next h]; exact (OnlyWritten.refl _ _ s).respond _
    | wr r v =>
      rw [runPrimitive_next h]
      refine (memWrite_onlyWritten v s (fun _ => ?_) fun hr hv => ?_).respond _
      · exact .inr (.inl ⟨v, rfl⟩)
      · exact .inr (.inl ⟨v, by rw [hr], hv⟩)
    | setb r n =>
      rw [runPrimitive_next h]
      refine (storeBit_onlyWritten true s ?_ fun hr hn _ => ?_).respond _
      · exact .inr (.inr (.inl rfl))
      · exact .inr (.inr (.inl (by rw [hr, hn])))
    | clrb r n =>
      rw [runPrimitive_next h]
      exact (storeBit_onlyWritten false s (.inr (.inr (.inr (.inl rfl)))) nofun).respond _
    | wrb r n b =>
      rw [runPrimitive_next h]
      refine (wrBit_onlyWritten b s ?_ fun hr hn hb => ?_).respond _
      · exact .inr (.inr (.inr (.inr ⟨b, rfl⟩)))
      · exact .inr (.inr (.inr (by rw [hr, hn, hb])))
    | getb r n => rw [runPrimitive_next h]; exact (OnlyWritten.refl _ _ s).respond _
    | init | start | rstart | slaw | slar | mtx | mrx | stop | swait | srx | stx | clrf | ien | idis | setcb =>
      cases hp

/-- Some bit of a register is written by an operation, or by a primitive of that register. -/
theorem instrWrites_some_bit {i : Instr} {r : Reg} (h : ∃ n, instrWrites i r n) :
    (∃ n, operationWrites i r n) ∨ (∃ v, i = .wr r v) ∨ (∃ n, i = .setb r n) ∨ (∃ n, i = .clrb r n) ∨
      ∃ n b, i = .wrb r n b := by
  obtain ⟨n, h | h | h | h | h⟩ := h
  · exact .inl ⟨n, h⟩
  · exact .inr (.inl h)
  · exact .inr (.inr (.inl ⟨n, h⟩))
  · exact .inr (.inr (.inr (.inl ⟨n, h⟩)))
  · exact .inr (.inr (.inr (.inr ⟨n, h⟩)))

/-! ## Which operations write a register or a bit -/

/-- `OADDR`, `STAT` and `BRG` are written by `INIT` only (R130). -/
theorem init_of_operationWrites {i : Instr} {r : Reg} (hr : r = .oaddr ∨ r = .stat ∨ r = .brg)
    (h : ∃ n, operationWrites i r n) : ∃ sv dv a, i = .init sv dv a := by
  rcases hr with rfl | rfl | rfl <;> cases i <;> simp [operationWrites] at h ⊢

/-- `DATA` is written by the operations that send a byte (R142 to R144, R152). -/
theorem sender_of_operationWrites {i : Instr} (h : ∃ n, operationWrites i .data n) :
    ∃ sv dv a, i = .slaw sv dv a ∨ i = .slar sv dv a ∨ i = .mtx sv dv a ∨ i = .stx sv dv a := by
  cases i <;> simp [operationWrites] at h ⊢

/-- `EA` is written by the operations that acknowledge (R145, R150, R151). -/
theorem acknowledger_of_operationWrites {i : Instr} (h : operationWrites i .ctrl 6#3) :
    ∃ sv dv a, i = .mrx sv dv a ∨ i = .srx sv dv a ∨ i = .swait sv dv a := by
  cases i <;> simp [operationWrites] at h ⊢

/-- `IE` is written by `IEN` and `IDIS` (R182, R183). -/
theorem ien_or_idis_of_operationWrites {i : Instr} (h : operationWrites i .ctrl 0#3) :
    ∃ sv dv a, i = .ien sv dv a ∨ i = .idis sv dv a := by
  cases i <;> simp [operationWrites] at h ⊢

/-- `EN` is written by `INIT` only (R130). -/
theorem init_of_operationWrites_enable {i : Instr} (h : operationWrites i .ctrl 2#3) :
    ∃ sv dv a, i = .init sv dv a := by
  cases i <;> simp [operationWrites] at h ⊢

/-- `INT` is written by `CLRF` and by the operations that start a bus action (R161, R162, R181). -/
theorem clearer_of_operationWrites {i : Instr} (h : operationWrites i .ctrl 7#3) :
    ∃ sv dv a, i = .start sv dv a ∨ i = .rstart sv dv a ∨ i = .slaw sv dv a ∨ i = .slar sv dv a ∨
      i = .mtx sv dv a ∨ i = .mrx sv dv a ∨ i = .stop sv dv a ∨ i = .srx sv dv a ∨ i = .stx sv dv a ∨
      i = .clrf sv dv a := by
  cases i <;> simp [operationWrites] at h ⊢

/-- `STA` and `STO` are written by the operations of the bus, of either role (R140 to R152). -/
theorem bus_operation_of_operationWrites {i : Instr} {n : BitIx} (hn : n = 4#3 ∨ n = 5#3)
    (h : operationWrites i .ctrl n) :
    ∃ sv dv a, i = .start sv dv a ∨ i = .rstart sv dv a ∨ i = .slaw sv dv a ∨ i = .slar sv dv a ∨
      i = .mtx sv dv a ∨ i = .mrx sv dv a ∨ i = .stop sv dv a ∨ i = .swait sv dv a ∨ i = .srx sv dv a ∨
      i = .stx sv dv a := by
  rcases hn with rfl | rfl <;> cases i <;> simp [operationWrites] at h ⊢

end Sys2Proof.Machine
end

section
/-! PROOFS. The primitives that write `DATA` (R27, R31, R120), issued from an idle context. -/

namespace Sys2Proof.Machine

open Sys2Proof.Claims

theorem runPrimitive_of_idle {s : State} (ha : activeSeq s = .idle) (u : State) (r : Resp) :
    runPrimitive s u r = .next (respond r u) := by simp [runPrimitive, ha]

/-- The model's bit replacement is the one the statements spell out. -/
theorem withBit_eq_byteWithBit (v : Byte) (n : BitIx) (b : Bool) : withBit v n.toNat b = byteWithBit v n b := by
  apply BitVec.eq_of_getLsbD_eq
  intro j hj
  rw [getLsbD_withBit _ _ _ _ n.isLt]
  rcases bitIx_cases n with rfl | rfl | rfl | rfl | rfl | rfl | rfl | rfl <;> interval_cases j <;> cases b <;>
    simp [byteWithBit]

theorem setBit_data (n : BitIx) (s : State) : setBit .data n s = dataWrite (byteWithBit s.data n true) s := by
  rw [← withBit_eq_byteWithBit]; rfl

theorem clrBit_data (n : BitIx) (s : State) : clrBit .data n s = dataWrite (byteWithBit s.data n false) s := by
  rw [← withBit_eq_byteWithBit]; rfl

theorem wrBit_data (n : BitIx) (b : Bool) (s : State) :
    wrBit .data n b s = dataWrite (byteWithBit s.data n b) s := by
  cases b
  · exact clrBit_data n s
  · exact setBit_data n s

/-- Each of the four primitives that write `DATA` answers after `data_write` (R120). -/
theorem runPrimitive_dataWrite {s : State} (ha : activeSeq s = .idle) (v : Byte) (r : Resp) :
    ∃ s', runPrimitive s (dataWrite v s) r = .next s' ∧ s'.ctrl.wc = !s.ctrl.int ∧ s'.ctrl.int = s.ctrl.int ∧
      (s.ctrl.int = false → s'.data = Config.freeByte s.draws) ∧ (s.ctrl.int = true → s'.data = v) :=
  ⟨_, runPrimitive_of_idle ha _ r, by simp, by simp, by simp +contextual, by simp +contextual⟩

/-- A primitive whose register write keeps `WC` answers with it unchanged. -/
theorem runPrimitive_wc {s u : State} (ha : activeSeq s = .idle) (r : Resp) (hu : u.ctrl.wc = s.ctrl.wc) :
    ∃ s', runPrimitive s u r = .next s' ∧ s'.ctrl.wc = s.ctrl.wc :=
  ⟨_, runPrimitive_of_idle ha u r, by simpa using hu⟩

end Sys2Proof.Machine
end

section
/-! PROOFS. The statements that rest on `10_state.md`. -/

namespace Sys2Proof.Machine

open Sys2Proof.Claims

/-- Settles O19, by the cases of a step; that no step empties the slot is the passed check of `SETCB`. -/
theorem slotIsWrittenOnlyBySetcb : Obligations.SlotIsWrittenOnlyBySetcb := by
  intro s s' h hr
  rcases step_cb h hr with e | ⟨ht, sv, dv, c, t, ha, e⟩
  · exact ⟨fun hne => absurd e hne, fun _ hc => e ▸ hc⟩
  · refine ⟨fun _ => ⟨ht, sv, dv, c, t, ha, e⟩, fun hi _ => ?_⟩
    have hk := seqOk_activeSeq hi
    rw [ha] at hk
    rw [e]
    exact setcb_ne_zero_of_seqOk hk

/-- Settles O23: each agent's step keeps every part of the invariant. -/
theorem everyStepKeepsTheInvariant : Obligations.EveryStepKeepsTheInvariant :=
  fun s s' hi h => (inv_iff s').2 (((inv_iff s).1 hi).step h)

/-- Settles O18, by the cases of a step: a turn of the active context keeps `in_handler`, and inside the handler
its frame holds the main context still. -/
theorem mainContextIsFrozenByTheHandler : Obligations.MainContextIsFrozenByTheHandler := by
  intro s s' h hr hh
  obtain ⟨-, hs⟩ := step_cases h
  rcases hs with ⟨-, hc⟩ | ⟨_, _, -, -, rfl⟩ | ⟨-, -, rfl⟩ | ⟨-, -, hd⟩ | ⟨ht, -⟩
  · rcases contextStep_contextFrame hc with hf | ⟨-, -, -, rfl⟩
    · exact hf.frozenMain (hh.elim id hf.inHandler.symm.trans)
    · exact ⟨rfl, rfl⟩
  · exact ⟨rfl, rfl⟩
  · exact ⟨rfl, rfl⟩
  · rcases deliver_next hd with ⟨-, -, rfl⟩ | ⟨-, _, -, rfl⟩ <;> exact ⟨rfl, rfl⟩
  · exact absurd ht hr

/-- Settles O20: every step but a completion event keeps a flag and a latch that are 0 at 0. -/
theorem onlyCompletionRaisesTheFlag : Obligations.OnlyCompletionRaisesTheFlag := by
  intro s s' h
  rcases step_complete_or_noRaise h with hc | ⟨hint, hpend⟩
  · exact ⟨fun _ _ => hc, fun _ _ => hc⟩
  · exact ⟨fun h0 h1 => absurd (h0.symm.trans (hint h1)) nofun,
      fun h0 h1 => absurd (h0.symm.trans (hpend h1)) nofun⟩

/-- Settles O21, by the cases of a step. -/
theorem statusCodeChangesOnlyAtCompletion : Obligations.StatusCodeChangesOnlyAtCompletion := by
  intro s s' h hne
  obtain ⟨-, hs⟩ := step_cases h
  rcases hs with ⟨-, hc⟩ | ⟨c, rx, ht, -, -⟩ | ⟨-, -, rfl⟩ | ⟨-, -, hd⟩ | ⟨ht, -⟩
  · rcases contextStep_contextFrame hc with hf | ⟨-, -, -, rfl⟩
    · exact absurd hf.sc5 hne
    · exact absurd rfl hne
  · exact .inl ⟨c, rx, ht⟩
  · exact absurd rfl hne
  · exact absurd (congrArg Stat.sc5 (deliver_stat hd)) hne
  · exact .inr ht

/-- Settles O26: the values are those of the reset state's and the reset event's definitions, and a reset event is
always admitted. -/
theorem whatResetLeaves : Obligations.WhatResetLeaves := by
  refine ⟨?_, fun u hw hn => ⟨_, step_of_nextChoice_reset hw hn⟩⟩
  rintro s (rfl | ⟨u, hw, hn, h⟩)
  · exact ⟨readReg_ctrl_of_reset rfl, rfl, rfl, rfl, rfl, rfl, rfl, readReg_stat_rsv2 _⟩
  · rw [step_of_nextChoice_reset hw hn] at h
    cases h
    exact ⟨readReg_ctrl_of_reset rfl, rfl, rfl, rfl, rfl, rfl, rfl, readReg_stat_rsv2 _⟩

/-- Settles O27: outside the registers by the frame of the active context's turn, in the registers by what the
instruction writes. -/
theorem frameOfEveryInstruction : Obligations.FrameOfEveryInstruction := by
  intro i s s' h
  have hf := exec_contextFrame h
  have hw := exec_onlyWritten h
  refine ⟨⟨hf.sc5, hf.cfg, hf.sched, hf.tick, hf.inHandler⟩, hf.frozenMain, hf.frozenHnd, ?cb, ?oaddr, ?brg,
    ?ps, ?data, ?ea, ?ie, ?enable, ?flag, ?request⟩
  case cb =>
    intro hne
    rcases exec_cb h with e | ⟨sv, dv, c, _, hi, -, -⟩
    · exact absurd e hne
    · exact ⟨sv, dv, c, hi⟩
  case oaddr => exact fun hne => (instrWrites_some_bit (hw.oaddr hne)).imp_left (init_of_operationWrites (by simp))
  case brg => exact fun hne => (instrWrites_some_bit (hw.brg hne)).imp_left (init_of_operationWrites (by simp))
  case ps => exact fun hne => (instrWrites_some_bit (hw.ps hne)).imp_left (init_of_operationWrites (by simp))
  case data => exact fun hne => (instrWrites_some_bit (hw.data hne)).imp_left sender_of_operationWrites
  case ea => exact fun hne => (hw.ea hne).imp_left acknowledger_of_operationWrites
  case ie => exact fun hne => (hw.ie hne).imp_left ien_or_idis_of_operationWrites
  case enable => exact fun hne => (hw.enable hne).imp_left init_of_operationWrites_enable
  case flag =>
    intro hne
    obtain ⟨hint, hpend, hc⟩ := hw.flag hne
    exact ⟨hint, hpend, hc.imp_left clearer_of_operationWrites⟩
  case request =>
    intro hne
    obtain ⟨n, hn, hwn⟩ : ∃ n, (n = 4#3 ∨ n = 5#3) ∧ instrWrites i .ctrl n :=
      (hw.request hne).elim (fun h => ⟨_, .inl rfl, h⟩) fun h => ⟨_, .inr rfl, h⟩
    rcases hwn with ho | hv | hp
    · exact .inl (bus_operation_of_operationWrites hn ho)
    · exact .inr (.inl hv)
    · exact .inr (.inr ⟨n, hn, hp⟩)

/-- Settles O53: the four primitives that write `DATA` answer after `data_write`, and the writes of `CTRL` bit 3
keep `WC`. -/
theorem writeCollision : Obligations.WriteCollision := by
  intro i v n b s ha
  constructor
  · intro hi
    obtain ⟨x, r, he, hx⟩ : ∃ x r, exec i s = runPrimitive s (dataWrite x s) r ∧
        ((i = .wr .data v → x = v) ∧ (i = .setb .data n → x = byteWithBit s.data n true) ∧
          (i = .clrb .data n → x = byteWithBit s.data n false) ∧
          (i = .wrb .data n b → x = byteWithBit s.data n b)) := by
      rcases hi with rfl | rfl | rfl | rfl
      · exact ⟨v, _, rfl, by simp⟩
      · exact ⟨byteWithBit s.data n true, _, by rw [← setBit_data]; rfl, by simp⟩
      · exact ⟨byteWithBit s.data n false, _, by rw [← clrBit_data]; rfl, by simp⟩
      · exact ⟨byteWithBit s.data n b, _, by rw [← wrBit_data]; rfl, by simp⟩
    obtain ⟨s', hs, hwc, hint, hfree, hland⟩ := runPrimitive_dataWrite ha x r
    exact ⟨s', he.trans hs, hwc, hint, hfree, fun h1 => by rw [hland h1]; exact hx⟩
  · rintro (rfl | rfl | rfl | rfl)
    · exact runPrimitive_wc ha _ (by rw [memWrite_ctrl])
    · exact runPrimitive_wc ha _ rfl
    · exact runPrimitive_wc ha _ rfl
    · exact runPrimitive_wc ha _ (by cases b <;> rfl)

/-- Settles O24, by evaluation of the one state. -/
theorem resetMeetsTheInvariant : Obligations.ResetMeetsTheInvariant := ⟨by decide, by decide⟩

end Sys2Proof.Machine
end

section
/-! PROOFS. The statements that rest on the register rules R65 and R66 of `20_memory.md`. -/

namespace Sys2Proof.Machine

/-- A response reads and writes no register (R83). -/
@[simp] theorem readReg_respond (r : Reg) (a : Resp) (s : State) : readReg r (respond a s) = readReg r s := by
  cases r <;> simp [readReg]

theorem seqMain_respond_of_idle {s : State} (ha : activeSeq s = .idle) (r : Resp) :
    (respond r s).seqMain = s.seqMain := by
  cases hh : s.inHandler <;> simp_all [activeSeq]

theorem seqHnd_respond_of_idle {s : State} (ha : activeSeq s = .idle) (r : Resp) :
    (respond r s).seqHnd = s.seqHnd := by
  cases hh : s.inHandler <;> simp_all [activeSeq]

/-- The two reads answer, from the register space alone, in the state they were issued in (R121, R126). -/
theorem exec_read_of_idle {i : Instr} (hi : (∃ reg a, i = .rd reg a) ∨ ∃ reg n, i = .getb reg n) :
    ∃ f : (Reg → Byte) → Byte, ∀ s : State, activeSeq s = .idle →
      exec i s = .next (respond (.ok none (some (f fun r => readReg r s))) s) := by
  rcases hi with ⟨reg, a, rfl⟩ | ⟨reg, n, rfl⟩
  · exact ⟨fun x => x reg, fun s ha => runPrimitive_of_idle ha s _⟩
  · exact ⟨fun x => 0#7 ++ BitVec.ofBool ((x reg).getLsbD n.toNat), fun s ha => runPrimitive_of_idle ha s _⟩

/-- A successful answer replaces the last response of the flow (R83). -/
theorem Flow.receive_ok_resp (ts : Option Ts) (d : Option Byte) (f : Flow) :
    (f.receive (.ok ts d)).resp = some (.ok ts d) := rfl

/-- The write of a bit of `CTRL` below the flag keeps the flag and the latch (R65, R120). -/
theorem storeCtrlBit_flag_latch {n : BitIx} (hn : n ≠ 7#3) (b : Bool) (s : State) :
    (storeCtrlBit n b s).ctrl.int = s.ctrl.int ∧ (storeCtrlBit n b s).irqPend = s.irqPend := by
  rcases storeCtrlBit_cases n b s with ⟨h, -⟩ | ⟨-, e⟩ | ⟨-, e⟩ | ⟨-, e⟩ | ⟨-, e⟩ | ⟨-, e⟩ | ⟨-, e⟩
  · exact absurd h hn
  all_goals rw [e]; exact ⟨rfl, rfl⟩

/-- The write of a bit of `CTRL` below the flag is ignored or replaces that bit of the byte (R65, R120). -/
theorem readReg_storeCtrlBit {n : BitIx} (hn : n ≠ 7#3) (b : Bool) (s : State) :
    readReg .ctrl (storeCtrlBit n b s) = readReg .ctrl s ∨
      readReg .ctrl (storeCtrlBit n b s) = withBit (readReg .ctrl s) n.toNat b := by
  rcases storeCtrlBit_cases n b s with ⟨h, -⟩ | ⟨-, e⟩ | ⟨h, e⟩ | ⟨h, e⟩ | ⟨h, e⟩ | ⟨h, e⟩ | ⟨h, e⟩
  · exact absurd h hn
  · exact .inl (by rw [e])
  all_goals
    right
    rw [e, h]
    clear e
    simp only [readReg, writeEnable]
    obtain ⟨int, ea, sta, sto, wc, en, ie⟩ := s.ctrl
    revert int ea sta sto wc en ie b
    decide

/-- Every other bit of `CTRL` reads as before (R65). -/
theorem getLsbD_readReg_storeCtrlBit {n : BitIx} (hn : n ≠ 7#3) (b : Bool) (s : State) {j : Nat}
    (hj : j ≠ n.toNat) :
    (readReg .ctrl (storeCtrlBit n b s)).getLsbD j = (readReg .ctrl s).getLsbD j := by
  rcases readReg_storeCtrlBit hn b s with e | e <;> rw [e]
  rw [getLsbD_withBit _ _ _ _ n.isLt, if_neg hj]

/-- The bit primitives of `CTRL` answer after `store_bit` (R120, R123 to R125). -/
theorem exec_ctrl_bit_of_idle {i : Instr} {n : BitIx}
    (hi : i = .setb .ctrl n ∨ i = .clrb .ctrl n ∨ ∃ b, i = .wrb .ctrl n b) {s : State}
    (ha : activeSeq s = .idle) :
    ∃ b, exec i s = .next (respond (.ok none none) (storeCtrlBit n b s)) := by
  rcases hi with rfl | rfl | ⟨b, rfl⟩
  · exact ⟨true, runPrimitive_of_idle ha _ _⟩
  · exact ⟨false, runPrimitive_of_idle ha _ _⟩
  · refine ⟨b, ?_⟩
    cases b <;> exact runPrimitive_of_idle ha _ _

/-- Settles O51: both reads answer from the registers, and the response leaves the registers and the hidden state,
so that the second read answers from the same registers. -/
theorem readsHaveNoSideEffect : Obligations.ReadsHaveNoSideEffect := by
  intro i s hi ha
  obtain ⟨f, hf⟩ := exec_read_of_idle hi
  exact ⟨_, hf s ha, by simp, by simp, by simp, by simp, seqMain_respond_of_idle ha _,
    seqHnd_respond_of_idle ha _, by simp, by simp, _, hf _ (by simp), by simp [Flow.receive_ok_resp]⟩

/-- Settles O52: the three primitives write one bit, and below bit 7 that write keeps the flag, the latch and
every other bit. -/
theorem bitPrimitivesAreBitAtomic : Obligations.BitPrimitivesAreBitAtomic := by
  intro i n s hn hi ha
  obtain ⟨b, he⟩ := exec_ctrl_bit_of_idle hi ha
  obtain ⟨hflag, hlatch⟩ := storeCtrlBit_flag_latch hn b s
  refine ⟨_, he, by simpa using hflag, by simpa using hlatch, fun j hj => ?_⟩
  rw [readReg_respond]
  exact getLsbD_readReg_storeCtrlBit hn b s hj

end Sys2Proof.Machine
end

section
/-! PROOFS. The mock register bank (R76): what it makes of each part of a step list, and of the nine operations
with a status output. -/

namespace Sys2Proof.Machine

open Sys2Proof.Claims

/-! ## The parts of a step list -/

section
variable (c : Config) (i : Instr) (us : List Micro) (t : Tmp) (m : MockBank)

theorem mockSteps_check (hi : contractOk i = true) :
    mockSteps c i (.check :: us) t m = mockSteps c i us t m := by
  simp [mockSteps, mockStep, hi]

theorem mockSteps_check_violated (hi : contractOk i = false) :
    mockSteps c i (.check :: us) t m = .done .invalidCall m := by
  simp [mockSteps, mockStep, hi]

theorem mockSteps_memWrite_data (v : Byte) :
    mockSteps c i (.memWrite .data v :: us) t m = mockSteps c i us t { m with data := v } := rfl

theorem mockSteps_setBit_data (n : BitIx) :
    mockSteps c i (.setBit .data n :: us) t m =
      mockSteps c i us t { m with data := withBit m.data n.toNat true } := rfl

theorem mockSteps_setBit_ctrl (n : BitIx) :
    mockSteps c i (.setBit .ctrl n :: us) t m =
      mockSteps c i us t { m with ctrl := withBit m.ctrl n.toNat true } := rfl

theorem mockSteps_clrBit_ctrl (n : BitIx) :
    mockSteps c i (.clrBit .ctrl n :: us) t m =
      mockSteps c i us t { m with ctrl := withBit m.ctrl n.toNat false } := rfl

theorem mockSteps_wrBit_ctrl (n : BitIx) (b : Bool) :
    mockSteps c i (.wrBit .ctrl n b :: us) t m =
      mockSteps c i us t { m with ctrl := withBit m.ctrl n.toNat b } := rfl

theorem mockSteps_wait_set (hm : m.ctrl.getLsbD 7 = true) :
    mockSteps c i (.wait :: us) t m = mockSteps c i us { t with b := true } m := by
  simp only [mockSteps, mockStep, hm, if_true]

theorem mockSteps_wait_clear (hm : m.ctrl.getLsbD 7 = false) :
    mockSteps c i (.wait :: us) t m = .waiting m := by
  simp only [mockSteps, mockStep, hm, Bool.false_eq_true, if_false]

/-- `BEGIN_COND` (R161): its clear-flag step lands, so its `WAIT` passes (log entry 25). -/
theorem mockSteps_beginCond :
    mockSteps c i (beginCond ++ us) t m =
      mockSteps c i us { t with b := true } { m with ctrl := (m.ctrl &&& 0xEF#8) ||| 0xA0#8 } := by
  have hbits : withBit (withBit (withBit m.ctrl 4 false) 5 true) 7 true = (m.ctrl &&& 0xEF#8) ||| 0xA0#8 :=
    BitVec.or_assoc _ _ _
  simp only [beginCond, List.cons_append, List.nil_append, mockSteps_clrBit_ctrl, mockSteps_setBit_ctrl]
  simp only [BitVec.reduceToNat, hbits]
  exact mockSteps_wait_set _ _ _ _ _ (by simp)

/-- `XFER_BYTE` (R162): its clear-flag step lands, so its `WAIT` passes (log entry 25). -/
theorem mockSteps_xferByte :
    mockSteps c i (xferByte ++ us) t m =
      mockSteps c i us { t with b := true } { m with ctrl := (m.ctrl &&& 0xCF#8) ||| 0x80#8 } := by
  have hbits : withBit (withBit (withBit m.ctrl 5 false) 4 false) 7 true = (m.ctrl &&& 0xCF#8) ||| 0x80#8 :=
    congrArg (· ||| 0x80#8) (BitVec.and_assoc m.ctrl 0xDF#8 0xEF#8)
  simp only [xferByte, List.cons_append, List.nil_append, mockSteps_clrBit_ctrl, mockSteps_setBit_ctrl]
  simp only [BitVec.reduceToNat, hbits]
  exact mockSteps_wait_set _ _ _ _ _ (by simp)

/-- The register steps of `SWAIT` (R150), which leave the flag to the test. -/
theorem mockSteps_listen :
    mockSteps c i ([Micro.clrBit .ctrl 5, Micro.clrBit .ctrl 4, Micro.setBit .ctrl 6] ++ us) t m =
      mockSteps c i us t { m with ctrl := (m.ctrl &&& 0xCF#8) ||| 0x40#8 } := by
  have hbits : withBit (withBit (withBit m.ctrl 5 false) 4 false) 6 true = (m.ctrl &&& 0xCF#8) ||| 0x40#8 :=
    congrArg (· ||| 0x40#8) (BitVec.and_assoc m.ctrl 0xDF#8 0xEF#8)
  simp only [List.cons_append, List.nil_append, mockSteps_clrBit_ctrl, mockSteps_setBit_ctrl]
  simp only [BitVec.reduceToNat, hbits]

theorem mockSteps_status (d : StatusOp) :
    mockSteps c i [.readStat, .respondStatus d] t m = .done (.ok (some (decodeStatus d c m.stat)) none) m := rfl

/-- The answer of a receive operation: the byte goes with a success only (R145, R151). -/
theorem mockSteps_receive (d : StatusOp) :
    mockSteps c i [.readStat, .receive d] t m =
      .done (.ok (some (decodeStatus d c m.stat))
        (if receiveSuccess (decodeStatus d c m.stat) then some m.data else none)) m := by
  cases h : receiveSuccess (decodeStatus d c m.stat) <;> simp [mockSteps, mockStep, h]

end

/-! ## The operations, by the kind of their step list -/

section
variable (c : Config) (m : MockBank) (i : Instr) (d : StatusOp)

/-- An operation that begins a bus condition (R140, R141). -/
theorem mockOperation_begin (hi : contractOk i = true)
    (hs : stepsOf c i = .check :: (beginCond ++ [Micro.readStat, Micro.respondStatus d])) :
    mockOperation c i m = .done (.ok (some (decodeStatus d c m.stat)) none)
      { m with ctrl := (m.ctrl &&& 0xEF#8) ||| 0xA0#8 } := by
  rw [mockOperation, hs, mockSteps_check _ _ _ _ _ hi, mockSteps_beginCond, mockSteps_status]

/-- An operation that loads `DATA` and sends it (R142, R144, R152). -/
theorem mockOperation_send (v : Byte) (hi : contractOk i = true)
    (hs : stepsOf c i = .check :: .memWrite .data v :: (xferByte ++ [Micro.readStat, Micro.respondStatus d])) :
    mockOperation c i m = .done (.ok (some (decodeStatus d c m.stat)) none)
      { m with data := v, ctrl := (m.ctrl &&& 0xCF#8) ||| 0x80#8 } := by
  rw [mockOperation, hs, mockSteps_check _ _ _ _ _ hi, mockSteps_memWrite_data, mockSteps_xferByte,
    mockSteps_status]

/-- `SLAR` sets bit 0 of the loaded address (R143). -/
theorem mockOperation_slar (dv : Bool) (a : Byte) :
    mockOperation c (.slar true dv a) m = .done (.ok (some (decodeStatus .slar c m.stat)) none)
      { m with data := withBit (addressByte a) 0 true, ctrl := (m.ctrl &&& 0xCF#8) ||| 0x80#8 } := by
  have hs : stepsOf c (.slar true dv a) = .check :: .memWrite .data (addressByte a) :: .setBit .data 0 ::
    (xferByte ++ [Micro.readStat, Micro.respondStatus .slar]) := rfl
  rw [mockOperation, hs, mockSteps_check _ _ _ _ _ rfl, mockSteps_memWrite_data, mockSteps_setBit_data,
    mockSteps_xferByte, mockSteps_status]
  rfl

/-- An operation that writes its directive to `EA` and receives a byte (R145, R151). -/
theorem mockOperation_receive (b : Bool) (hi : contractOk i = true)
    (hs : stepsOf c i = .check :: .wrBit .ctrl 6 b :: (xferByte ++ [Micro.readStat, Micro.receive d])) :
    mockOperation c i m = .done (.ok (some (decodeStatus d c m.stat))
        (if receiveSuccess (decodeStatus d c m.stat) then some m.data else none))
      { m with ctrl := (withBit m.ctrl 6 b &&& 0xCF#8) ||| 0x80#8 } := by
  rw [mockOperation, hs, mockSteps_check _ _ _ _ _ hi, mockSteps_wrBit_ctrl, mockSteps_xferByte,
    mockSteps_receive]
  rfl

/-- `SWAIT` up to its `WAIT` (R150). -/
theorem mockOperation_swait (dv : Bool) (a : Byte) :
    mockOperation c (.swait true dv a) m =
      mockSteps c (.swait true dv a) [.wait, .readStat, .respondStatus .swait] Tmp.zero
        { m with ctrl := (m.ctrl &&& 0xCF#8) ||| 0x40#8 } := by
  have hs : stepsOf c (.swait true dv a) = .check ::
    ([Micro.clrBit .ctrl 5, Micro.clrBit .ctrl 4, Micro.setBit .ctrl 6] ++
      [Micro.wait, Micro.readStat, Micro.respondStatus .swait]) := rfl
  rw [mockOperation, hs, mockSteps_check _ _ _ _ _ rfl, mockSteps_listen]

/-- A violation of the table of R160 fails the check. -/
theorem contractOk_of_violates {i : Instr} (h : violates i) : contractOk i = false := by
  cases i with
  | start | rstart | slaw | slar | mtx | swait | stx => exact h
  | mrx sv dv q | srx sv dv q =>
    rcases h with rfl | rfl | ⟨h0, h1⟩
    · simp [contractOk]
    · simp [contractOk]
    · simp [contractOk, directiveOk, h0, h1]
  | setcb sv dv a => exact decide_eq_false (not_not_intro h)
  | init | stop | clrf | ien | idis | rd | wr | setb | clrb | wrb | getb => exact h.elim

/-- A contract violation performs no write (R160, R210). -/
theorem mockOperation_of_violates (hp : portOf i = .command) (hv : violates i) :
    mockOperation c i m = .done .invalidCall m := by
  obtain ⟨us, hs⟩ : ∃ us, stepsOf c i = .check :: us := by
    cases hl : stepsOf c i with
    | nil => simpa [hl] using stepsOf_zero c hp
    | cons u us => exact ⟨us, by simpa [hl] using stepsOf_zero c hp⟩
  rw [mockOperation, hs, mockSteps_check_violated _ _ _ _ _ (contractOk_of_violates hv)]

end

/-! ## The bytes and the answers -/

theorem addressByte_eq_append (a : Byte) : addressByte a = a.extractLsb' 0 7 ++ 0#1 := by
  revert a; decide

theorem addressByte_or_one_eq_append (a : Byte) :
    withBit (addressByte a) 0 true = a.extractLsb' 0 7 ++ 1#1 := by
  revert a; decide

theorem directiveOk_of_defined {a : Byte} (ha : a = 0x00#8 ∨ a = 0x01#8) : directiveOk a = true := by
  simpa [directiveOk] using ha

/-- `CTRL` after a receive: the directive's bit outlasts `XFER_BYTE`, which writes other bits. -/
theorem ctrl_after_receive {a : Byte} (ha : a = 0x00#8 ∨ a = 0x01#8) (v : Byte) :
    (withBit v 6 (directiveBit a) &&& 0xCF#8) ||| 0x80#8 =
      if a = 0x01#8 then ((v &&& 0xCF#8) ||| 0x80#8) ||| 0x40#8
      else ((v &&& 0xCF#8) ||| 0x80#8) &&& 0xBF#8 := by
  rcases ha with rfl | rfl <;> revert v <;> decide

theorem msendErrStatus_eq_ite (e : MsendErr) :
    msendErrStatus e = if e = .dataError then .dataError else .addressError := by cases e <;> rfl

/-- The answer of `MRX` by its table (R145, R171). -/
theorem mrx_answer (cfg : Config) (raw d : Byte) :
    Resp.ok (some (decodeStatus .mrx cfg raw))
        (if receiveSuccess (decodeStatus .mrx cfg raw) then some d else none) =
      if raw &&& 0xF8#8 = 0x50#8 then .ok (some .ackSent) (some d)
      else if raw &&& 0xF8#8 = 0x58#8 then .ok (some .nackSent) (some d)
      else if raw &&& 0xF8#8 = 0x38#8 then .ok (some .arbitrationLost) none
      else .ok (some .dataError) none := by
  simp only [decodeStatus, decodeMrx, statusCode, scMrDataAck, scMrDataNack, scArbLost]
  by_cases hack : raw &&& 0xF8#8 = 0x50#8
  · simp [hack, receiveSuccess]
  by_cases hnack : raw &&& 0xF8#8 = 0x58#8
  · simp [hnack, receiveSuccess]
  by_cases hlost : raw &&& 0xF8#8 = 0x38#8 <;> simp [hack, hnack, hlost, receiveSuccess]

/-- The answer of `SRX` by its table (R151, R173). -/
theorem srx_answer (cfg : Config) (raw d : Byte) :
    Resp.ok (some (decodeStatus .srx cfg raw))
        (if receiveSuccess (decodeStatus .srx cfg raw) then some d else none) =
      if raw &&& 0xF8#8 = 0x80#8 ∨ raw &&& 0xF8#8 = 0x90#8 then .ok (some .ackSent) (some d)
      else if raw &&& 0xF8#8 = 0x88#8 ∨ raw &&& 0xF8#8 = 0x98#8 then .ok (some .nackSent) (some d)
      else .ok (some .dataError) none := by
  simp only [decodeStatus, decodeSrx, statusCode, scSrDataAck, scSrDataNack, scSrGcDataAck, scSrGcDataNack]
  by_cases hack : raw &&& 0xF8#8 = 0x80#8 ∨ raw &&& 0xF8#8 = 0x90#8
  · simp [hack, receiveSuccess]
  by_cases hnack : raw &&& 0xF8#8 = 0x88#8 ∨ raw &&& 0xF8#8 = 0x98#8 <;> simp [hack, hnack, receiveSuccess]

/-- Settles O58, by the kind of each operation's step list: the decoders are read off their definitions. -/
theorem mockBankDecodesTheStatus : Obligations.MockBankDecodesTheStatus := by
  intro cfg m dv a
  refine ⟨?start, ?rstart, ?slaw, ?slar, ?mtx, ?stx, fun ha => ⟨?mrx, ?srx⟩, fun hf => ?swaitSet,
    fun hf => ?swaitClear, fun i => mockOperation_of_violates cfg m i⟩
  case start => exact mockOperation_begin cfg m _ .start rfl rfl
  case rstart => exact mockOperation_begin cfg m _ .rstart rfl rfl
  case slaw =>
    rw [← addressByte_eq_append]
    exact mockOperation_send cfg m _ .slaw _ rfl rfl
  case slar =>
    rw [← addressByte_or_one_eq_append]
    exact mockOperation_slar cfg m dv a
  case mtx =>
    rw [← msendErrStatus_eq_ite]
    exact mockOperation_send cfg m _ .mtx a rfl rfl
  case stx => exact mockOperation_send cfg m _ .stx a rfl rfl
  case mrx =>
    rw [← ctrl_after_receive ha, ← mrx_answer cfg]
    exact mockOperation_receive cfg m _ .mrx _ (directiveOk_of_defined ha) rfl
  case srx =>
    rw [← ctrl_after_receive ha, ← srx_answer cfg]
    exact mockOperation_receive cfg m _ .srx _ (directiveOk_of_defined ha) rfl
  case swaitSet =>
    rw [mockOperation_swait, mockSteps_wait_set _ _ _ _ _ (by simpa using hf), mockSteps_status]
    rfl
  case swaitClear =>
    rw [mockOperation_swait, mockSteps_wait_clear _ _ _ _ _ (by simpa using hf)]

end Sys2Proof.Machine
end

section
/-! PROOFS. The two formats and the response word (R80 to R91, R98): the fields of an encoded word, the words
that are encodings, the words that decode to nothing, and the fields of a response. -/

namespace Sys2Proof.Machine

open Sys2Proof.Claims

/-! ## The fields of an encoded word -/

section
variable (op : BitVec 4) (prim : BitVec 3) (r : Reg) (sv dv : Bool) (a : Byte)

@[simp] theorem encodeC_op : (encodeC op sv dv a).extractLsb' 12 4 = op := by
  simp only [encodeC, BitVec.append_assoc, BitVec.cast_eq]
  exact BitVec.extractLsb'_append_eq_left

@[simp] theorem encodeC_sv : (encodeC op sv dv a).getLsbD 11 = sv := by
  simp only [encodeC, BitVec.getLsbD_append]
  simp

@[simp] theorem encodeC_dv : (encodeC op sv dv a).getLsbD 10 = dv := by
  simp only [encodeC, BitVec.getLsbD_append]
  simp

@[simp] theorem encodeC_z : (encodeC op sv dv a).extractLsb' 8 2 = 0#2 :=
  (BitVec.extractLsb'_append_eq_of_le (by decide)).trans BitVec.extractLsb'_append_eq_right

@[simp] theorem encodeC_arg : (encodeC op sv dv a).extractLsb' 0 8 = a :=
  BitVec.extractLsb'_append_eq_right

@[simp] theorem encodeR_prim : (encodeR prim r a).extractLsb' 13 3 = prim := by
  simp only [encodeR, BitVec.append_assoc, BitVec.cast_eq]
  exact BitVec.extractLsb'_append_eq_left

@[simp] theorem encodeR_reg : (encodeR prim r a).extractLsb' 10 3 = indexOfReg r :=
  calc (encodeR prim r a).extractLsb' 10 3
    _ = (prim ++ indexOfReg r ++ 0#2).extractLsb' 2 3 := BitVec.extractLsb'_append_eq_of_le (by decide)
    _ = (prim ++ indexOfReg r).extractLsb' 0 3 := BitVec.extractLsb'_append_eq_of_le (by decide)
    _ = indexOfReg r := BitVec.extractLsb'_append_eq_right

@[simp] theorem encodeR_z : (encodeR prim r a).extractLsb' 8 2 = 0#2 :=
  (BitVec.extractLsb'_append_eq_of_le (by decide)).trans BitVec.extractLsb'_append_eq_right

@[simp] theorem encodeR_arg : (encodeR prim r a).extractLsb' 0 8 = a :=
  BitVec.extractLsb'_append_eq_right

end

/-! ## The register index and the operand of a bit primitive -/

@[simp] theorem regOfIndex_indexOfReg (r : Reg) : regOfIndex (indexOfReg r) = some r := by
  cases r <;> rfl

theorem regOfIndex_of_ge {n : BitVec 3} (h : 5 ≤ n.toNat) : regOfIndex n = none := by
  revert n; decide

theorem exists_indexOfReg_eq {n : BitVec 3} (h : n.toNat < 5) : ∃ r, indexOfReg r = n := by
  have hn : n = 0#3 ∨ n = 1#3 ∨ n = 2#3 ∨ n = 3#3 ∨ n = 4#3 := by revert n; decide
  rcases hn with rfl | rfl | rfl | rfl | rfl
  exacts [⟨.ctrl, rfl⟩, ⟨.data, rfl⟩, ⟨.oaddr, rfl⟩, ⟨.stat, rfl⟩, ⟨.brg, rfl⟩]

/-- A bit number fills `ARG[2:0]` (R82). -/
@[simp] theorem decodeBitOp_append (i : BitIx) (mk : BitIx → Instr) :
    decodeBitOp (0#5 ++ i) mk = .instr (mk i) := by
  have hhigh : (0#5 ++ i).extractLsb' 3 5 = 0#5 := BitVec.extractLsb'_append_eq_left
  have hbit : (0#5 ++ i).extractLsb' 0 3 = i := BitVec.extractLsb'_append_eq_right
  simp only [decodeBitOp, hhigh, hbit, if_true]

theorem eq_append_of_high5 {a : Byte} (h : a.extractLsb' 3 5 = 0#5) : 0#5 ++ a.extractLsb' 0 3 = a := by
  rw [← h]
  exact BitVec.extractLsb'_append_extractLsb'

theorem eq_append_of_high4 {a : Byte} (h : a.extractLsb' 4 4 = 0#4) :
    0#4 ++ BitVec.ofBool (a.getLsbD 3) ++ a.extractLsb' 0 3 = a := by
  revert a; decide

/-! ## Every instruction is read back from its word -/

/-- Settles O2: each field the decoder reads is the one the encoder placed. -/
theorem decodeOfEncodeIsTheInstruction : Obligations.DecodeOfEncodeIsTheInstruction := by
  intro i
  cases i with
  | init | start | rstart | slaw | slar | mtx | mrx | stop | swait | srx | stx | clrf | ien | idis | setcb =>
    simp [decode, portOf, encode, decodeCommand, -BitVec.getLsbD_eq_getElem]
  | rd | wr | setb | clrb | getb => simp [decode, portOf, encode, decodeRegister]
  | wrb r i b =>
    -- the value and the bit number fill `ARG[3:0]` (R82)
    have hhigh : (0#4 ++ BitVec.ofBool b ++ i).extractLsb' 4 4 = 0#4 := by
      cases b <;> revert i <;> decide
    have hvalue : (0#4 ++ BitVec.ofBool b ++ i).getLsbD 3 = b := by
      cases b <;> revert i <;> decide
    have hbit : (0#4 ++ BitVec.ofBool b ++ i).extractLsb' 0 3 = i := BitVec.extractLsb'_append_eq_right
    simp [decode, portOf, encode, decodeRegister, hhigh, hvalue, hbit, -BitVec.getLsbD_eq_getElem]

/-! ## Every word that is not reserved is an encoding -/

theorem encodeC_fields {w : Word16} (hz : w.extractLsb' 8 2 = 0#2) :
    encodeC (w.extractLsb' 12 4) (w.getLsbD 11) (w.getLsbD 10) (w.extractLsb' 0 8) = w := by
  apply BitVec.eq_of_getLsbD_eq
  intro n hn
  rw [encodeC, ← hz]
  simp only [BitVec.getLsbD_append, BitVec.getLsbD_extractLsb', BitVec.getLsbD_ofBool]
  interval_cases n <;> simp

theorem encodeR_fields {w : Word16} {r : Reg} (hz : w.extractLsb' 8 2 = 0#2)
    (hr : indexOfReg r = w.extractLsb' 10 3) :
    encodeR (w.extractLsb' 13 3) r (w.extractLsb' 0 8) = w := by
  apply BitVec.eq_of_getLsbD_eq
  intro n hn
  rw [encodeR, ← hz, hr]
  simp only [BitVec.getLsbD_append, BitVec.getLsbD_extractLsb']
  interval_cases n <;> simp

/-- Every operation number but `0xF` is an operation's (R88). -/
theorem exists_encode_eq_encodeC {op : BitVec 4} (hop : op ≠ 0xF#4) (sv dv : Bool) (a : Byte) :
    ∃ i, portOf i = .command ∧ encode i = encodeC op sv dv a := by
  have hops : op = 0#4 ∨ op = 1#4 ∨ op = 2#4 ∨ op = 3#4 ∨ op = 4#4 ∨ op = 5#4 ∨ op = 6#4 ∨ op = 7#4 ∨
      op = 8#4 ∨ op = 9#4 ∨ op = 10#4 ∨ op = 11#4 ∨ op = 12#4 ∨ op = 13#4 ∨ op = 14#4 := by
    revert op; decide
  rcases hops with rfl | rfl | rfl | rfl | rfl | rfl | rfl | rfl | rfl | rfl | rfl | rfl | rfl | rfl | rfl
  exacts [⟨.init sv dv a, rfl, rfl⟩, ⟨.start sv dv a, rfl, rfl⟩, ⟨.rstart sv dv a, rfl, rfl⟩,
    ⟨.slaw sv dv a, rfl, rfl⟩, ⟨.slar sv dv a, rfl, rfl⟩, ⟨.mtx sv dv a, rfl, rfl⟩,
    ⟨.mrx sv dv a, rfl, rfl⟩, ⟨.stop sv dv a, rfl, rfl⟩, ⟨.swait sv dv a, rfl, rfl⟩,
    ⟨.srx sv dv a, rfl, rfl⟩, ⟨.stx sv dv a, rfl, rfl⟩, ⟨.clrf sv dv a, rfl, rfl⟩,
    ⟨.ien sv dv a, rfl, rfl⟩, ⟨.idis sv dv a, rfl, rfl⟩, ⟨.setcb sv dv a, rfl, rfl⟩]

/-- A primitive's number (R89) with an operand of its width (R82) is a primitive's word. -/
theorem exists_encode_eq_encodeR {prim : BitVec 3} {a : Byte} (r : Reg) (h6 : prim ≠ 6#3) (h7 : prim ≠ 7#3)
    (hbit : prim = 2#3 ∨ prim = 3#3 ∨ prim = 5#3 → a.extractLsb' 3 5 = 0#5)
    (hwrb : prim = 4#3 → a.extractLsb' 4 4 = 0#4) :
    ∃ i, portOf i = .register ∧ encode i = encodeR prim r a := by
  have hprims : prim = 0#3 ∨ prim = 1#3 ∨ prim = 2#3 ∨ prim = 3#3 ∨ prim = 4#3 ∨ prim = 5#3 := by
    clear hbit hwrb; revert prim; decide
  rcases hprims with rfl | rfl | rfl | rfl | rfl | rfl
  · exact ⟨.rd r a, rfl, rfl⟩
  · exact ⟨.wr r a, rfl, rfl⟩
  · exact ⟨.setb r (a.extractLsb' 0 3), rfl, congrArg (encodeR 2 r) (eq_append_of_high5 (hbit (by decide)))⟩
  · exact ⟨.clrb r (a.extractLsb' 0 3), rfl, congrArg (encodeR 3 r) (eq_append_of_high5 (hbit (by decide)))⟩
  · exact ⟨.wrb r (a.extractLsb' 0 3) (a.getLsbD 3), rfl,
      congrArg (encodeR 4 r) (eq_append_of_high4 (hwrb rfl))⟩
  · exact ⟨.getb r (a.extractLsb' 0 3), rfl, congrArg (encodeR 5 r) (eq_append_of_high5 (hbit (by decide)))⟩

theorem exists_encode_of_not_reservedWord {p : Port} {w : Word16} (h : ¬ reservedWord p w) :
    ∃ i, portOf i = p ∧ encode i = w := by
  cases p with
  | command =>
    simp only [reservedWord, not_or, not_not] at h
    obtain ⟨hop, hz⟩ := h
    rw [← encodeC_fields hz]
    exact exists_encode_eq_encodeC hop _ _ _
  | register =>
    simp only [reservedWord, not_or, not_and, not_not, Nat.not_le] at h
    obtain ⟨h6, h7, hz, hreg, hbit, hwrb⟩ := h
    obtain ⟨r, hr⟩ := exists_indexOfReg_eq hreg
    rw [← encodeR_fields hz hr]
    exact exists_encode_eq_encodeR r h6 h7 (by simpa using hbit) (by simpa using hwrb)

/-! ## A reserved word decodes to no instruction -/

theorem decode_of_reservedWord {p : Port} {w : Word16} (h : reservedWord p w) :
    ∃ r, decode p w = .reserved r := by
  by_cases hz : w.extractLsb' 8 2 = 0#2
  case neg => cases p <;> simp [decode, decodeCommand, decodeRegister, hz]
  cases p with
  | command =>
    have hop : w.extractLsb' 12 4 = 0xF#4 := by simpa [reservedWord, hz] using h
    simp [decode, decodeCommand, hz, hop]
  | register =>
    cases hr : regOfIndex (w.extractLsb' 10 3) with
    | none => simp [decode, decodeRegister, hz, hr]
    | some r =>
      have hreg : ¬ 5 ≤ (w.extractLsb' 10 3).toNat := fun hge => by simp [regOfIndex_of_ge hge] at hr
      simp only [reservedWord, hz, hreg, ne_eq, not_true, false_or] at h
      rcases h with hp | hp | ⟨hp, ha⟩ | ⟨hp, ha⟩
      · simp [decode, decodeRegister, hz, hr, hp]
      · simp [decode, decodeRegister, hz, hr, hp]
      · rcases hp with hp | hp | hp <;> simp [decode, decodeRegister, decodeBitOp, hz, hr, hp, ha]
      · simp [decode, decodeRegister, hz, hr, hp, ha]

theorem not_reservedWord_of_decode {p : Port} {w : Word16} {i : Instr} (hd : decode p w = .instr i) :
    ¬ reservedWord p w := fun hres => by
  obtain ⟨r, hr⟩ := decode_of_reservedWord hres
  cases hr.symm.trans hd

/-! ## The round trip and the reserved words -/

/-- Settles O3: the word is not reserved, so it is some instruction's encoding, and that is the one it decodes
to. -/
theorem encodeOfDecodeIsTheWord : Obligations.EncodeOfDecodeIsTheWord := by
  intro p w i hd
  obtain ⟨j, rfl, rfl⟩ := exists_encode_of_not_reservedWord (not_reservedWord_of_decode hd)
  have hj : Decoded.instr j = .instr i := (decodeOfEncodeIsTheInstruction j).symm.trans hd
  cases hj
  exact ⟨rfl, rfl⟩

theorem not_reservedWord_iff (p : Port) (w : Word16) : ¬ reservedWord p w ↔ ∃ i, decode p w = .instr i := by
  refine ⟨fun hw => ?_, fun ⟨_, hd⟩ => not_reservedWord_of_decode hd⟩
  obtain ⟨i, rfl, rfl⟩ := exists_encode_of_not_reservedWord hw
  exact ⟨i, decodeOfEncodeIsTheInstruction i⟩

theorem reservedWord_iff (p : Port) (w : Word16) : reservedWord p w ↔ ∃ r, decode p w = .reserved r := by
  refine ⟨decode_of_reservedWord, fun ⟨r, hr⟩ => ?_⟩
  by_contra hw
  obtain ⟨i, hi⟩ := (not_reservedWord_iff p w).mp hw
  cases hr.symm.trans hi

/-- Settles O4: an idle context that is handed a word with no instruction is answered `invalid-call`. -/
theorem reservedWordsAnswerInvalidCall : Obligations.ReservedWordsAnswerInvalidCall := by
  refine ⟨rfl, fun p w => ⟨reservedWord_iff p w, not_reservedWord_iff p w, fun hres s ha => ?_⟩⟩
  obtain ⟨r, hr⟩ := decode_of_reservedWord hres
  simp only [issue, hr, raiseInvalidCall_of_idle ha]

/-! ## Words of the tables -/

/-- `WRB CTRL, 6, 1` (R89): `PRIM` 4, `REG` 0, the value in `ARG[3]` (R82). -/
theorem decode_word_wrb_ctrl : decode .register 0x800E#16 = .instr (.wrb .ctrl 6#3 true) := by decide

/-- Settles O1, word by word. -/
theorem wordsOfTheTablesDecode : Obligations.WordsOfTheTablesDecode :=
  ⟨decode_word_init, decode_word_start, decode_word_slaw, decode_word_mrx, decode_word_stx, decode_word_setcb,
    decode_word_setb, decode_word_wrb_ctrl, decode_word_wr⟩

/-! ## The response word -/

/-- The four bits `RC`, `STV`, `DAV` and 0 (R83). -/
theorem flagNibble_bits (stv dav : Bool) :
    (0#1 ++ BitVec.ofBool stv ++ BitVec.ofBool dav ++ 0#1).getLsbD 3 = false ∧
    (0#1 ++ BitVec.ofBool stv ++ BitVec.ofBool dav ++ 0#1).getLsbD 2 = stv ∧
    (0#1 ++ BitVec.ofBool stv ++ BitVec.ofBool dav ++ 0#1).getLsbD 1 = dav ∧
    (0#1 ++ BitVec.ofBool stv ++ BitVec.ofBool dav ++ 0#1).getLsbD 0 = false := by
  cases stv <;> cases dav <;> decide

section
variable (ts : Option Ts) (d : Option Byte)

theorem responseWord_ok_flags (k : Nat) :
    (responseWord (.ok ts d)).getLsbD (k + 12) =
      (0#1 ++ BitVec.ofBool ts.isSome ++ BitVec.ofBool d.isSome ++ 0#1).getLsbD k :=
  calc (responseWord (.ok ts d)).getLsbD (k + 12)
    _ = (0#1 ++ BitVec.ofBool ts.isSome ++ BitVec.ofBool d.isSome ++ 0#1 ++
          (match ts with | some t => tsNumber t | none => 0#4)).getLsbD (k + 4) :=
      BitVec.getLsbD_append.trans (if_neg (by omega))
    _ = _ := BitVec.getLsbD_append.trans (if_neg (by omega))

theorem responseWord_ok_ts :
    (responseWord (.ok ts d)).extractLsb' 8 4 = (match ts with | some t => tsNumber t | none => 0#4) :=
  (BitVec.extractLsb'_append_eq_of_le (by decide)).trans BitVec.extractLsb'_append_eq_right

theorem responseWord_ok_data :
    (responseWord (.ok ts d)).extractLsb' 0 8 = (match d with | some b => b | none => 0#8) := by
  cases d <;> exact BitVec.extractLsb'_append_eq_right

theorem Flow.receive_ok_stSink (f : Flow) :
    (f.receive (.ok ts d)).stSink = if ts.isSome then ts else f.stSink := by
  cases ts <;> rfl

theorem Flow.receive_ok_daSink (f : Flow) :
    (f.receive (.ok ts d)).daSink = if d.isSome then d else f.daSink := by
  cases d <;> rfl

end

/-- Settles O5, field by field and sink by sink. -/
theorem responseWordAndSinks : Obligations.ResponseWordAndSinks := by
  refine ⟨fun ts d => ?fields, rfl, rfl, fun ts d f => ?sinks⟩
  case fields =>
    obtain ⟨hrc, hstv, hdav, hzero⟩ := flagNibble_bits ts.isSome d.isSome
    have hflag := responseWord_ok_flags ts d
    exact ⟨(hflag 3).trans hrc, (hflag 2).trans hstv, (hflag 1).trans hdav, (hflag 0).trans hzero,
      responseWord_ok_ts ts d, responseWord_ok_data ts d⟩
  case sinks => exact ⟨Flow.receive_ok_stSink ts d f, Flow.receive_ok_daSink ts d f, rfl, rfl⟩

end Sys2Proof.Machine
end

section
/-! PROOFS. The statements that rest on `40_register_primitives.md`: each primitive issued from an idle context
answers after the register write of its definition, which is the one the statements spell out. -/

namespace Sys2Proof.Machine

open Sys2Proof.Claims

/-! ## Register writes in the words of the statements -/

/-- The model's `data_write` is the one the statements spell out (R120). -/
theorem dataWrite_eq_dataWritten (v : Byte) (s : State) : dataWrite v s = dataWritten v s := rfl

/-- Replacing a bit of the prescaler select replaces that one of its two bits; bits above 1 are not stored
(R33, R120). -/
theorem withBit_prescaler (p : BitVec 2) (n : BitIx) (b : Bool) :
    (if n.toNat ≤ 1 then withBit p n.toNat b else p) =
      BitVec.ofBool (if n = 1#3 then b else p.getLsbD 1) ++ BitVec.ofBool (if n = 0#3 then b else p.getLsbD 0) := by
  revert p n b; decide

/-- A bit write of `CTRL` follows the table of R120, row by row. -/
theorem storeCtrlBit_eq_bitStored (n : BitIx) (b : Bool) (s : State) :
    storeCtrlBit n b s = bitStored .ctrl n b s := by
  rcases storeCtrlBit_cases n b s with ⟨rfl, rfl, e⟩ | ⟨rfl | rfl | ⟨rfl, rfl⟩, e⟩ | ⟨rfl, e⟩ | ⟨rfl, e⟩ |
    ⟨rfl, e⟩ | ⟨rfl, e⟩ | ⟨rfl, e⟩ <;> rw [e] <;> simp [bitStored, clearFlag, writeEnable]

/-- A bit write follows the table of R120, register by register. -/
theorem storeBit_eq_bitStored (r : Reg) (n : BitIx) (b : Bool) (s : State) :
    storeBit r n b s = bitStored r n b s := by
  cases r with
  | ctrl => exact storeCtrlBit_eq_bitStored n b s
  | data => simp only [storeBit, bitStored, withBit_eq_byteWithBit, dataWrite_eq_dataWritten]
  | oaddr => simp only [storeBit, bitStored, withBit_eq_byteWithBit]
  | stat =>
    simp only [bitStored, ← withBit_prescaler, storeBit]
    split <;> rfl
  | brg => simp only [storeBit, bitStored, withBit_eq_byteWithBit]

theorem wrBit_eq_storeBit (r : Reg) (n : BitIx) (b : Bool) (s : State) : wrBit r n b s = storeBit r n b s := by
  cases b <;> rfl

/-! ## Reads in the words of the statements -/

/-- The answer of `GETB`: seven zeros and the bit read (R126). -/
theorem zeros_append_ofBool (b : Bool) : 0#7 ++ BitVec.ofBool b = if b then 0x01#8 else 0x00#8 := by
  cases b <;> rfl

/-- Bit 1 of `CTRL` is reserved and reads 0 (R29). -/
theorem readReg_ctrl_rsv1 (s : State) : (readReg .ctrl s).getLsbD 1 = false := by
  simp only [readReg, BitVec.getLsbD_append]
  rfl

/-! ## The statements -/

/-- Settles O48: the answer follows the byte write, whose effect on each register `memWrite` has a lemma for. -/
theorem wrWritesTheRegister : Obligations.WrWritesTheRegister := by
  intro v s ha
  have hexec (reg : Reg) : exec (.wr reg v) s = .next (respond (.ok none none) (memWrite reg v s)) :=
    runPrimitive_of_idle ha _ _
  refine ⟨?ctrl, ?data, ?oaddr, ?stat, ?brg⟩ <;> rw [hexec]
  case ctrl =>
    rw [memWrite_ctrl]
    cases v.getLsbD 7 <;> simp
  case data => rw [memWrite_data, dataWrite_eq_dataWritten]
  case oaddr => rw [memWrite_oaddr]
  case stat => rw [memWrite_stat]
  case brg => rw [memWrite_brg]

/-- Settles O49: the three primitives answer after the same write of one bit. -/
theorem bitPrimitivesWriteOneBit : Obligations.BitPrimitivesWriteOneBit := by
  intro reg n b s ha
  simp only [← storeBit_eq_bitStored]
  refine ⟨runPrimitive_of_idle ha _ _, runPrimitive_of_idle ha _ _, ?_⟩
  rw [← wrBit_eq_storeBit]
  exact runPrimitive_of_idle ha _ _

/-- Settles O47: the answer is `readReg`, which composes each register from its fields. -/
theorem rdAnswersTheComposedByte : Obligations.RdAnswersTheComposedByte := by
  intro reg a s ha
  cases reg <;> exact runPrimitive_of_idle ha s _

/-- Settles O50: the answer is the bit of the composed byte, in which the reserved bits are zeros. -/
theorem getbAnswersTheBit : Obligations.GetbAnswersTheBit := by
  intro reg n s ha
  rw [← zeros_append_ofBool]
  exact ⟨runPrimitive_of_idle ha s _, readReg_ctrl_rsv1 s, readReg_stat_rsv2 s⟩

end Sys2Proof.Machine
end

section
/-! PROOFS. The operations that do not wait (R130, R146, R181 to R184): a run of their writes, and the run
from issue to `ok`. -/

namespace Sys2Proof.Machine

open Sys2Proof.Claims

/-- The register effects of several micro-steps, first one first. -/
def effects (ms : List Micro) (s : State) : State := ms.foldl (fun u m => effect m u) s

@[simp] theorem effects_nil (s : State) : effects [] s = s := rfl

@[simp] theorem effects_cons (m : Micro) (ms : List Micro) (s : State) :
    effects (m :: ms) s = effects ms (effect m s) := rfl

@[simp] theorem effect_cfg (m : Micro) (s : State) : (effect m s).cfg = s.cfg := by
  cases m with
  | memWrite r v => exact (memWrite_same r v s).cfg
  | setBit r n => exact (setBit_same r n s).cfg
  | clrBit r n => exact (clrBit_same r n s).cfg
  | wrBit r n b => exact (wrBit_same r n b s).cfg
  | storeCb | check | wait | readStat | respondOk | respondStatus | receive => rfl

@[simp] theorem effects_cfg (ms : List Micro) (s : State) : (effects ms s).cfg = s.cfg := by
  induction ms generalizing s with
  | nil => rfl
  | cons m ms ih => rw [effects_cons, ih, effect_cfg]

/-- A running operation at a step that only writes takes the write and goes on. -/
theorem exec_write {i : Instr} {k : Nat} {t : Tmp} {s : State} {m : Micro} (hp : portOf i = .command)
    (ha : atStep i k t s) (hm : (stepsOf s.cfg i)[k]? = some m) (hw : isWrite m = true) :
    exec i s = .next (goto i (k + 1) t (effect m s)) := by
  rw [exec_run hp ha hm]
  cases m with
  | memWrite | setBit | clrBit | wrBit | storeCb => rfl
  | check | wait | readStat | respondOk | respondStatus | receive => cases hw

theorem execTimes_succ {i : Instr} {s s' : State} (h : exec i s = .next s') (n : Nat) :
    execTimes (n + 1) i s = execTimes n i s' := by
  rw [execTimes, h]

/-- A run over the writes `ws` that the step list has from its step `k` on. -/
theorem execTimes_writes {i : Instr} (hp : portOf i = .command) (t : Tmp) (n : Nat) {ws rest : List Micro}
    {k : Nat} {s : State} (hl : (stepsOf s.cfg i).drop k = ws ++ rest) (hw : ∀ m ∈ ws, isWrite m = true) :
    execTimes (ws.length + n) i (goto i k t s) =
      execTimes n i (goto i (k + ws.length) t (effects ws s)) := by
  induction ws generalizing k s with
  | nil => simp
  | cons m ws ih =>
    have hm : (stepsOf s.cfg i)[k]? = some m := by rw [← List.head?_drop, hl]; rfl
    have htail : (stepsOf (effect m s).cfg i).drop (k + 1) = ws ++ rest := by
      rw [effect_cfg, ← List.tail_drop, hl]; rfl
    calc execTimes ((m :: ws).length + n) i (goto i k t s)
      _ = execTimes (ws.length + n + 1) i (goto i k t s) := by rw [List.length_cons, Nat.add_right_comm]
      _ = execTimes (ws.length + n) i (goto i (k + 1) t (effect m s)) :=
        execTimes_succ (exec_goto_write hp hm (hw m List.mem_cons_self)) _
      _ = execTimes n i (goto i (k + 1 + ws.length) t (effects ws (effect m s))) :=
        ih htail fun m' hm' => hw m' (List.mem_cons_of_mem m hm')
      _ = _ := by rw [List.length_cons, Nat.add_right_comm, Nat.add_assoc, effects_cons]

/-- An operation that checks, writes and answers `ok`, from its issue to its response (R160). -/
theorem execTimes_check_writes_ok {i : Instr} {s : State} {ws : List Micro} (hp : portOf i = .command)
    (hc : contractOk i = true) (ha : activeSeq s = .idle)
    (hl : stepsOf s.cfg i = .check :: (ws ++ [.respondOk])) (hw : ∀ m ∈ ws, isWrite m = true) :
    execTimes (ws.length + 2) i s = .next (respond (.ok none none) (effects ws s)) := by
  have hlast : (stepsOf (effects ws s).cfg i)[1 + ws.length]? = some .respondOk := by
    rw [effects_cfg, hl, Nat.add_comm]
    simp
  calc execTimes (ws.length + 2) i s
    _ = execTimes (ws.length + 1) i (goto i 1 Tmp.zero s) := execTimes_succ (exec_issue hp hc ha) _
    _ = execTimes 1 i (goto i (1 + ws.length) Tmp.zero (effects ws s)) :=
      execTimes_writes hp Tmp.zero 1 (by rw [hl]; rfl) hw
    _ = execTimes 0 i (respond (.ok none none) (effects ws s)) :=
      execTimes_succ (exec_goto_respondOk hp hlast) 0

end Sys2Proof.Machine
end

section
/-! PROOFS. The statements that rest on `41_initialization.md`: the writes of `INIT`, each in the words of the
statements, its steps, and its run. -/

namespace Sys2Proof.Machine

open Sys2Proof.Claims

/-! ## The writes of the step list -/

/-- The five register writes of `INIT` (R130). -/
def initWrites (c : Config) : List Micro :=
  [.memWrite .brg c.rate, .wrBit .stat 0 ((prescalerPattern c.prescaler).getLsbD 0),
    .wrBit .stat 1 ((prescalerPattern c.prescaler).getLsbD 1), .memWrite .oaddr (ownAddressByte c),
    .setBit .ctrl 2]

theorem stepsOf_init (c : Config) (sv dv : Bool) (a : Byte) :
    stepsOf c (.init sv dv a) = .check :: (initWrites c ++ [.respondOk]) := rfl

theorem isWrite_of_mem_initWrites (c : Config) : ∀ m ∈ initWrites c, isWrite m = true := by
  simp [initWrites, isWrite]

/-- `OADDR` as configured is the address with the general-call bit below it (R95). -/
theorem ownAddressByte_eq_append (c : Config) : ownAddressByte c = c.ownAddr ++ BitVec.ofBool c.gcEn := by
  have key : ∀ (a : BitVec 7) (g : Bool),
      (a.zeroExtend 8 <<< 1) ||| (BitVec.ofBool g).zeroExtend 8 = a ++ BitVec.ofBool g := by decide
  exact key c.ownAddr c.gcEn

/-- Bit 0 of the pattern (R94). -/
theorem prescalerPattern_bit0 (p : Prescaler) :
    (prescalerPattern p).getLsbD 0 = decide (p = .by4 ∨ p = .by64) := by cases p <;> decide

/-- Bit 1 of the pattern (R94). -/
theorem prescalerPattern_bit1 (p : Prescaler) :
    (prescalerPattern p).getLsbD 1 = decide (p = .by16 ∨ p = .by64) := by cases p <;> decide

theorem effect_memWrite_brg (v : Byte) (s : State) : effect (.memWrite .brg v) s = { s with brg := v } :=
  memWrite_brg v s

theorem effect_memWrite_oaddr (v : Byte) (s : State) : effect (.memWrite .oaddr v) s = { s with oaddr := v } :=
  memWrite_oaddr v s

theorem effect_wrBit_stat_bit0 (b : Bool) (s : State) :
    effect (.wrBit .stat 0 b) s = { s with stat := { s.stat with
      ps := BitVec.ofBool (s.stat.ps.getLsbD 1) ++ BitVec.ofBool b } } :=
  (wrBit_eq_storeBit .stat 0 b s).trans (storeBit_eq_bitStored .stat 0 b s)

theorem effect_wrBit_stat_bit1 (b : Bool) (s : State) :
    effect (.wrBit .stat 1 b) s = { s with stat := { s.stat with
      ps := BitVec.ofBool b ++ BitVec.ofBool (s.stat.ps.getLsbD 0) } } :=
  (wrBit_eq_storeBit .stat 1 b s).trans (storeBit_eq_bitStored .stat 1 b s)

/-- Setting `EN` leaves the engine phase alone (R28). -/
theorem effect_setBit_enable (s : State) :
    effect (.setBit .ctrl 2) s = { s with ctrl := { s.ctrl with en := true } } := by
  simp [effect, setBit, storeBit, writeEnable]

/-- The two bit writes of `STAT` together store the pattern, whatever was there before (R132). -/
theorem prescalerPattern_of_bits (p : Prescaler) (x : BitVec 1) :
    BitVec.ofBool ((prescalerPattern p).getLsbD 1) ++
        BitVec.ofBool ((x ++ BitVec.ofBool ((prescalerPattern p).getLsbD 0)).getLsbD 0) =
      prescalerPattern p := by
  revert x; cases p <;> decide

/-- The writes of `INIT` store the configuration and enable the peripheral (R132). -/
theorem effects_initWrites (c : Config) (s : State) :
    effects (initWrites c) s = { s with
      oaddr := c.ownAddr ++ BitVec.ofBool c.gcEn
      brg := c.rate
      stat := { s.stat with ps := prescalerPattern c.prescaler }
      ctrl := { s.ctrl with en := true } } := by
  simp only [initWrites, effects_cons, effects_nil, effect_memWrite_brg, effect_wrBit_stat_bit0,
    effect_wrBit_stat_bit1, effect_memWrite_oaddr, effect_setBit_enable, prescalerPattern_of_bits,
    ownAddressByte_eq_append]

/-! ## The statements -/

/-- Settles O30, step by step: the check, the five writes, the answer. -/
theorem initStepList : Obligations.InitStepList := by
  intro sv dv a s t i
  have hwrite {k : Nat} {m : Micro} (hm : (initSteps s.cfg)[k]? = some m) (hw : isWrite m = true)
      (ha : atStep i k t s) : exec i s = .next (goto i (k + 1) t (effect m s)) := exec_write rfl ha hm hw
  refine ⟨exec_issue rfl rfl, fun ha => ?rate, fun ha => ?ps0, fun ha => ?ps1, fun ha => ?own, fun ha => ?enable,
    fun ha => exec_run (m := .respondOk) rfl ha rfl⟩
  case rate => rw [hwrite rfl rfl ha, effect_memWrite_brg]
  case ps0 => rw [hwrite rfl rfl ha, effect_wrBit_stat_bit0, prescalerPattern_bit0]
  case ps1 => rw [hwrite rfl rfl ha, effect_wrBit_stat_bit1, prescalerPattern_bit1]
  case own => rw [hwrite rfl rfl ha, effect_memWrite_oaddr, ownAddressByte_eq_append]
  case enable => rw [hwrite rfl rfl ha, effect_setBit_enable]

/-- Settles O40: `INIT` checks, writes and answers, and its writes store the configuration. -/
theorem initFromAnyState : Obligations.InitFromAnyState := by
  intro sv dv a s ha
  have hrun : execTimes 7 (.init sv dv a) s =
      .next (respond (.ok none none) (effects (initWrites s.cfg) s)) :=
    execTimes_check_writes_ok rfl rfl ha (stepsOf_init s.cfg sv dv a) (isWrite_of_mem_initWrites s.cfg)
  rw [hrun, effects_initWrites]
  cases s.cfg.prescaler <;> rfl

end Sys2Proof.Machine
end

section
/-! PROOFS. The operations that wait (R140 to R145, R150 to R152): each kind of step of a running operation,
and the run from issue to response around one completion event at the `WAIT`. -/

namespace Sys2Proof.Machine

open Sys2Proof.Claims

/-! ## One step of a running operation -/

section
variable {i : Instr} {k : Nat} {t : Tmp} {s : State} (hp : portOf i = .command) (ha : atStep i k t s)
include hp ha

/-- A poll passes with the flag set (R163). -/
theorem exec_wait_set (hm : (stepsOf s.cfg i)[k]? = some .wait) (hi : s.ctrl.int = true) :
    exec i s = .next (goto i (k + 1) { t with b := true } s) := by
  rw [exec_run hp ha hm]
  simp [microStep, pollFlag, hi]

/-- A poll stutters with the flag clear (R163). -/
theorem exec_wait_clear (hm : (stepsOf s.cfg i)[k]? = some .wait) (hi : s.ctrl.int = false) :
    exec i s = .next (goto i k { t with b := false } s) := by
  rw [exec_run hp ha hm]
  simp [microStep, pollFlag, hi]

theorem exec_readStat (hm : (stepsOf s.cfg i)[k]? = some .readStat) :
    exec i s = .next (goto i (k + 1) { t with s := readReg .stat s } s) :=
  exec_run hp ha hm

theorem exec_respondStatus {d : StatusOp} (hm : (stepsOf s.cfg i)[k]? = some (.respondStatus d)) :
    exec i s = .next (respond (.ok (some (decodeStatus d s.cfg t.s)) none) s) :=
  exec_run hp ha hm

theorem exec_receive {d : StatusOp} (hm : (stepsOf s.cfg i)[k]? = some (.receive d)) :
    exec i s = .next (receiveStep d t s) :=
  exec_run hp ha hm

end

/-- A receive operation answers with the byte on a success only (R145, R151). -/
theorem receiveStep_eq_respond (d : StatusOp) (t : Tmp) (s : State) :
    receiveStep d t s = respond (.ok (some (decodeStatus d s.cfg t.s))
      (if receiveSuccess (decodeStatus d s.cfg t.s) then some s.data else none)) s := by
  unfold receiveStep
  by_cases h : receiveSuccess (decodeStatus d s.cfg t.s) <;> simp only [h] <;> rfl

/-! ## The writes before a `WAIT` -/

/-- The writes of `BEGIN_COND` (R161). -/
def beginWrites : List Micro := [.clrBit .ctrl 4, .setBit .ctrl 5, .setBit .ctrl 7]

/-- The writes of `XFER_BYTE` (R162). -/
def xferWrites : List Micro := [.clrBit .ctrl 5, .clrBit .ctrl 4, .setBit .ctrl 7]

theorem effects_beginWrites (s : State) :
    effects beginWrites s = flagCleared { s with ctrl := { s.ctrl with sto := false, sta := true } } := rfl

theorem effects_xferWrites (s : State) :
    effects xferWrites s = flagCleared { s with ctrl := { s.ctrl with sta := false, sto := false } } := rfl

theorem isWrite_of_mem_beginWrites : ∀ m ∈ beginWrites, isWrite m = true := by decide

/-- `XFER_BYTE` after other writes only writes. -/
theorem isWrite_of_mem_append_xferWrites {ws : List Micro} (hw : ∀ m ∈ ws, isWrite m = true) :
    ∀ m ∈ ws ++ xferWrites, isWrite m = true := by
  have hx : ∀ m ∈ xferWrites, isWrite m = true := by decide
  exact List.forall_mem_append.2 ⟨hw, hx⟩

/-- A write of the address byte loads `a[6:0] ++ 0` (R84). -/
theorem effect_memWrite_addressByte (a : Byte) (s : State) :
    effect (.memWrite .data (addressByte a)) s = dataWritten (a.extractLsb' 0 7 ++ 0#1) s := by
  rw [← addressByte_eq_append]
  rfl

/-- `EA` follows a defined directive (R84, R85). -/
theorem effect_wrBit_directive {q : Byte} (hq : q = 0x00#8 ∨ q = 0x01#8) (s : State) :
    effect (.wrBit .ctrl 6 (directiveBit q)) s =
      { s with ctrl := { s.ctrl with ea := decide (q = 0x01#8) } } := by
  rcases hq with rfl | rfl <;> rfl

/-- A write of `DATA` with the flag set lands and clears `WC` (R120). -/
theorem dataWritten_of_int {s : State} (hi : s.ctrl.int = true) (v : Byte) :
    dataWritten v s = { s with data := v, ctrl := { s.ctrl with wc := false } } := if_pos hi

/-! ## From issue to response -/

/-- A run of the check and the writes `ws` that follow it in the step list (R160). -/
theorem execTimes_check_writes {i : Instr} {s : State} {ws rest : List Micro} (hp : portOf i = .command)
    (hc : contractOk i = true) (ha : activeSeq s = .idle) (hl : stepsOf s.cfg i = .check :: (ws ++ rest))
    (hw : ∀ m ∈ ws, isWrite m = true) :
    execTimes (ws.length + 1) i s = .next (goto i (1 + ws.length) Tmp.zero (effects ws s)) :=
  (execTimes_succ (exec_issue hp hc ha) _).trans
    (execTimes_writes hp Tmp.zero 0 (by rw [hl]; rfl) hw)

theorem execTimes_one (i : Instr) (s : State) : execTimes 1 i s = exec i s := by
  rw [execTimes]
  cases exec i s <;> rfl

/-- From a `WAIT` with the flag set: the poll passes, the status is read, and the step after it is the last. -/
theorem execTimes_wait_readStat {i : Instr} {k : Nat} {t : Tmp} {s : State} {rest : List Micro}
    (hp : portOf i = .command) (hl : (stepsOf s.cfg i).drop k = .wait :: .readStat :: rest)
    (hi : s.ctrl.int = true) :
    execTimes 3 i (goto i k t s) = exec i (goto i (k + 2) { t with b := true, s := readReg .stat s } s) := by
  have hwait : (stepsOf s.cfg i)[k]? = some .wait := by rw [← List.head?_drop, hl]; rfl
  have hread : (stepsOf s.cfg i)[k + 1]? = some .readStat := by rw [← List.getElem?_drop, hl]; rfl
  rw [execTimes_succ (exec_goto_wait hp hwait hi), execTimes_succ (exec_goto_readStat hp hread), execTimes_one]

theorem engineComplete_goto (c : Code5) (rx : Option Byte) (i : Instr) (k : Nat) (t : Tmp) (s : State) :
    engineComplete c rx (goto i k t s) = goto i k t (engineComplete c rx s) :=
  engineComplete_setActive c rx _ s

theorem codeByte_masked (c : Code5) : codeByte c &&& 0xF8#8 = codeByte c := by
  revert c; decide

/-- The code an event leaves in `STAT` is the one the decoders read, whatever the prescaler (R34, R192). -/
theorem decodeStatus_engineComplete (d : StatusOp) (cfg : Config) (c : Code5) (rx : Option Byte) (s : State) :
    decodeStatus d cfg (readReg .stat (engineComplete c rx s)) = decodeStatus d cfg (codeByte c) := by
  have hcode : statusCode (readReg .stat (engineComplete c rx s)) = statusCode (codeByte c) :=
    (statusCode_readReg_stat _).trans (codeByte_masked c).symm
  cases d <;> simp only [decodeStatus, hcode]

theorem engineComplete_effects_cfg {s u : State} {ws : List Micro} (c : Code5) (rx : Option Byte)
    (hu : effects ws s = u) : (engineComplete c rx u).cfg = s.cfg := by
  rw [engineComplete_cfg, ← hu, effects_cfg]

section
variable {i : Instr} {s u : State} {ws : List Micro} (c : Code5) (rx : Option Byte)
  (hp : portOf i = .command) (hc : contractOk i = true) (ha : activeSeq s = .idle)
  (hw : ∀ m ∈ ws, isWrite m = true) (hu : effects ws s = u)
include hp hc ha hw hu

/-- An operation that checks, writes and waits, run around one completion event (R159): the event finds the
writes done, and the last step finds the event's status read. -/
theorem execAround_eq {last : Micro} (hl : stepsOf s.cfg i = .check :: (ws ++ [.wait, .readStat, last])) :
    execAround (ws.length + 1) 3 c rx i s =
      exec i (goto i (ws.length + 3)
        { Tmp.zero with b := true, s := readReg .stat (engineComplete c rx u) } (engineComplete c rx u)) := by
  have hdrop : (stepsOf (engineComplete c rx u).cfg i).drop (1 + ws.length) = [.wait, .readStat, last] := by
    rw [engineComplete_effects_cfg c rx hu, hl, Nat.add_comm]
    simp
  rw [execAround, execTimes_check_writes hp hc ha hl hw, hu]
  change execTimes 3 i (engineComplete c rx (goto i _ _ _)) = _
  rw [engineComplete_goto, execTimes_wait_readStat hp hdrop rfl, Nat.add_comm 1]

/-- Such an operation with a status output answers the decode of the event's code. -/
theorem execAround_respondStatus {d : StatusOp}
    (hl : stepsOf s.cfg i = .check :: (ws ++ [.wait, .readStat, .respondStatus d])) :
    execAround (ws.length + 1) 3 c rx i s =
      .next (respond (.ok (some (decodeStatus d s.cfg (codeByte c))) none) (engineComplete c rx u)) := by
  have hcfg := engineComplete_effects_cfg c rx hu
  have hm : (stepsOf (engineComplete c rx u).cfg i)[ws.length + 3]? = some (.respondStatus d) := by
    rw [hcfg, hl]; simp
  rw [execAround_eq c rx hp hc ha hw hu hl, exec_goto_respondStatus hp hm, decodeStatus_engineComplete, hcfg]

/-- Such an operation that receives answers the decode, with the byte of the event or else the byte of `DATA` on
a success (R145, R151). -/
theorem execAround_receive {d : StatusOp}
    (hl : stepsOf s.cfg i = .check :: (ws ++ [.wait, .readStat, .receive d])) :
    execAround (ws.length + 1) 3 c rx i s =
      .next (respond (.ok (some (decodeStatus d s.cfg (codeByte c)))
        (if receiveSuccess (decodeStatus d s.cfg (codeByte c)) then some (rx.getD u.data) else none))
        (engineComplete c rx u)) := by
  have hcfg := engineComplete_effects_cfg c rx hu
  have hm : (stepsOf (engineComplete c rx u).cfg i)[ws.length + 3]? = some (.receive d) := by
    rw [hcfg, hl]; simp
  rw [execAround_eq c rx hp hc ha hw hu hl, exec_goto_receive hp hm, receiveStep_eq_respond,
    decodeStatus_engineComplete, hcfg]
  rfl

end

end Sys2Proof.Machine
end

section
/-! PROOFS. The statements that rest on `42_controller_ops.md`: the step lists, one lemma for the steps that
operations share, and the whole operations. -/

namespace Sys2Proof.Machine

open Sys2Proof.Claims

/-! ## The step lists -/

/-- An operation that begins a bus condition, step by step (R140, R141, R147). -/
theorem begin_steps {i : Instr} {d : StatusOp} (hp : portOf i = .command) (hc : contractOk i = true)
    (hl : ∀ c, stepsOf c i = .check :: (beginCond ++ [.readStat, .respondStatus d])) (s : State) (t : Tmp) :
    (activeSeq s = .idle → exec i s = .next (goto i 1 Tmp.zero s)) ∧
    (atStep i 1 t s → exec i s = .next (goto i 2 t { s with ctrl := { s.ctrl with sto := false } })) ∧
    (atStep i 2 t s → exec i s = .next (goto i 3 t { s with ctrl := { s.ctrl with sta := true } })) ∧
    (atStep i 3 t s → exec i s = .next (goto i 4 t (flagCleared s))) ∧
    (atStep i 4 t s → s.ctrl.int = true → exec i s = .next (goto i 5 { t with b := true } s)) ∧
    (atStep i 4 t s → s.ctrl.int = false → exec i s = .next (goto i 4 { t with b := false } s)) ∧
    (atStep i 5 t s → exec i s = .next (goto i 6 { t with s := readReg .stat s } s)) ∧
    (atStep i 6 t s → exec i s = .next (respond (.ok (some (decodeStatus d s.cfg t.s)) none) s)) := by
  have hm (k : Nat) : (stepsOf s.cfg i)[k]? = (.check :: (beginCond ++ [.readStat, .respondStatus d]))[k]? := by
    rw [hl]
  exact ⟨exec_issue hp hc, fun ha => exec_write hp ha (hm 1) rfl, fun ha => exec_write hp ha (hm 2) rfl,
    fun ha => exec_write hp ha (hm 3) rfl, fun ha => exec_wait_set hp ha (hm 4),
    fun ha => exec_wait_clear hp ha (hm 4), fun ha => exec_readStat hp ha (hm 5),
    fun ha => exec_respondStatus hp ha (hm 6)⟩

/-- A step list with `XFER_BYTE` and the status read from its step `n` on has the steps of the statements
there (R162 to R164). -/
theorem xferThenStatus_of_drop {i : Instr} {n : Nat} {last : Micro} (hp : portOf i = .command)
    (hl : ∀ c, (stepsOf c i).drop n = xferByte ++ [.readStat, last]) : xferThenStatus i n := by
  intro s t
  have hm (k : Nat) : (stepsOf s.cfg i)[n + k]? = (xferByte ++ [.readStat, last])[k]? := by
    rw [← hl s.cfg, List.getElem?_drop]
  exact ⟨fun ha => exec_write hp ha (hm 0) rfl, fun ha => exec_write hp ha (hm 1) rfl,
    fun ha => exec_write hp ha (hm 2) rfl, fun ha => exec_wait_set hp ha (hm 3),
    fun ha => exec_wait_clear hp ha (hm 3), fun ha => exec_readStat hp ha (hm 4)⟩

/-- Settles O31: the steps of an operation that begins a condition, with the decoder of `START`. -/
theorem startStepList : Obligations.StartStepList := fun _ _ s t =>
  begin_steps (d := .start) rfl rfl (fun _ => rfl) s t

/-- Settles O32: the steps of an operation that begins a condition, with the decoder of `RSTART`. -/
theorem rstartStepList : Obligations.RstartStepList := fun _ _ s t =>
  begin_steps (d := .rstart) rfl rfl (fun _ => rfl) s t

/-- Settles O33: the load of the address byte, then the steps every transfer shares. -/
theorem slawStepList : Obligations.SlawStepList := by
  intro dv a s t i
  refine ⟨exec_issue rfl rfl, fun ha => ?load, xferThenStatus_of_drop rfl fun _ => rfl,
    fun ha => exec_respondStatus (d := .slaw) rfl ha rfl⟩
  rw [← effect_memWrite_addressByte]
  exact exec_write rfl ha rfl rfl

/-- Settles O34: the load of the address byte and the write of its bit 0, then the steps every transfer shares. -/
theorem slarStepList : Obligations.SlarStepList := by
  intro dv a s t i
  refine ⟨exec_issue rfl rfl, fun ha => ?load, fun ha => exec_write (m := .setBit .data 0) rfl ha rfl rfl,
    xferThenStatus_of_drop rfl fun _ => rfl, fun ha => exec_respondStatus (d := .slar) rfl ha rfl⟩
  rw [← effect_memWrite_addressByte]
  exact exec_write rfl ha rfl rfl

/-- Settles O35: the two operations share every step but the answer. -/
theorem sendDataStepLists : Obligations.SendDataStepLists := by
  intro dv b s t
  refine ⟨?shared, fun ha => ?mtx, fun ha => exec_respondStatus (d := .stx) rfl ha rfl⟩
  case shared =>
    rintro i (rfl | rfl)
    all_goals
      exact ⟨exec_issue rfl rfl, fun ha => exec_write (m := .memWrite .data b) rfl ha rfl rfl,
        xferThenStatus_of_drop rfl fun _ => rfl⟩
  case mtx =>
    rw [← msendErrStatus_eq_ite]
    exact exec_respondStatus (d := .mtx) rfl ha rfl

/-- Settles O36: the two operations share every step but the answer, which the tables of the decoders give. -/
theorem receiveDataStepLists : Obligations.ReceiveDataStepLists := by
  intro q s t hq
  refine ⟨?shared, fun ha => ?mrx, fun ha => ?srx⟩
  case shared =>
    rintro i (rfl | rfl)
    all_goals
      refine ⟨exec_issue rfl (directiveOk_of_defined hq), fun ha => ?_, xferThenStatus_of_drop rfl fun _ => rfl⟩
      rw [← effect_wrBit_directive hq]
      exact exec_write rfl ha rfl rfl
  case mrx => rw [exec_receive (d := .mrx) rfl ha rfl, receiveStep_eq_respond, mrx_answer]
  case srx => rw [exec_receive (d := .srx) rfl ha rfl, receiveStep_eq_respond, srx_answer]

/-- Settles O37: the check, three bit writes of `CTRL`, and `ok`. -/
theorem stopStepList : Obligations.StopStepList := fun _ _ _ _ _ =>
  ⟨exec_issue rfl rfl, fun ha => exec_write (m := .clrBit .ctrl 5) rfl ha rfl rfl,
    fun ha => exec_write (m := .setBit .ctrl 4) rfl ha rfl rfl,
    fun ha => exec_write (m := .setBit .ctrl 7) rfl ha rfl rfl,
    fun ha => exec_run (m := .respondOk) rfl ha rfl⟩

/-! ## Whole operations -/

/-- Settles O41: both operations run the writes of `BEGIN_COND` and answer around the event. -/
theorem startFromIssueToResponse : Obligations.StartFromIssueToResponse := by
  intro dv a s c rx ha u
  rw [← codeByte_masked c]
  refine ⟨?start, ?rstart, rfl, rfl, rfl⟩
  case start =>
    exact execAround_respondStatus (d := .start) c rx rfl rfl ha isWrite_of_mem_beginWrites
      (effects_beginWrites s) rfl
  case rstart =>
    exact execAround_respondStatus (d := .rstart) c rx rfl rfl ha isWrite_of_mem_beginWrites
      (effects_beginWrites s) rfl

/-- The writes of a transfer that loads `DATA` with the flag set (R120, R162). -/
theorem effects_load_xferWrites {s : State} (hi : s.ctrl.int = true) (v : Byte) :
    effects (.memWrite .data v :: xferWrites) s = flagCleared { s with
      data := v, ctrl := { s.ctrl with wc := false, sta := false, sto := false } } := by
  have hload : effect (.memWrite .data v) s = { s with data := v, ctrl := { s.ctrl with wc := false } } :=
    dataWritten_of_int hi v
  rw [effects_cons, hload]
  rfl

/-- With the flag set, setting bit 0 of a byte just loaded is a load of the byte with that bit set (R120). -/
theorem effect_setBit_dataWritten {s : State} (hi : s.ctrl.int = true) (v : Byte) :
    effect (.setBit .data 0) (dataWritten v s) = dataWritten (withBit v 0 true) s := by
  rw [dataWritten_of_int hi, dataWritten_of_int hi]
  exact if_pos hi

/-- The two writes of `DATA` in `SLAR` load the address with bit 0 set (R84, R143). -/
theorem effects_slar_xferWrites {s : State} (hi : s.ctrl.int = true) (a : Byte) :
    effects (.memWrite .data (addressByte a) :: .setBit .data 0 :: xferWrites) s = flagCleared { s with
      data := a.extractLsb' 0 7 ++ 1#1
      ctrl := { s.ctrl with wc := false, sta := false, sto := false } } :=
  calc effects (.memWrite .data (addressByte a) :: .setBit .data 0 :: xferWrites) s
    _ = effects xferWrites (effect (.setBit .data 0) (dataWritten (addressByte a) s)) := rfl
    _ = effects (.memWrite .data (a.extractLsb' 0 7 ++ 1#1) :: xferWrites) s := by
      rw [effect_setBit_dataWritten hi, addressByte_or_one_eq_append]
      rfl
    _ = _ := effects_load_xferWrites hi _

/-- Settles O42: each operation runs its load and the writes of `XFER_BYTE`, and answers around the event. -/
theorem transfersFromIssueToResponse : Obligations.TransfersFromIssueToResponse := by
  intro dv a s c rx ha hi loaded
  have hsend {i : Instr} {d : StatusOp} (v : Byte) (hp : portOf i = .command) (hc : contractOk i = true)
      (hl : stepsOf s.cfg i =
        .check :: (.memWrite .data v :: xferWrites ++ [.wait, .readStat, .respondStatus d])) :
      execAround 5 3 c rx i s = .next (respond (.ok (some (decodeStatus d s.cfg (codeByte c))) none)
        (engineComplete c rx (loaded v))) :=
    execAround_respondStatus c rx hp hc ha (isWrite_of_mem_append_xferWrites (ws := [_]) (by simp [isWrite]))
      (effects_load_xferWrites hi v) hl
  rw [← codeByte_masked c]
  refine ⟨?slaw, ?slar, ?mtx, hsend (d := .stx) a rfl rfl rfl⟩
  case slaw =>
    rw [← addressByte_eq_append]
    exact hsend (d := .slaw) _ rfl rfl rfl
  case slar =>
    exact execAround_respondStatus (d := .slar) c rx rfl rfl ha
      (isWrite_of_mem_append_xferWrites (ws := [_, _]) (by simp [isWrite])) (effects_slar_xferWrites hi a) rfl
  case mtx =>
    rw [← msendErrStatus_eq_ite]
    exact hsend (d := .mtx) a rfl rfl rfl

/-- The writes of a receive: the directive, then those of `XFER_BYTE` (R84, R162). -/
theorem effects_directive_xferWrites {q : Byte} (hq : q = 0x00#8 ∨ q = 0x01#8) (s : State) :
    effects (.wrBit .ctrl 6 (directiveBit q) :: xferWrites) s = flagCleared { s with
      ctrl := { s.ctrl with ea := decide (q = 0x01#8), sta := false, sto := false } } := by
  rw [effects_cons, effect_wrBit_directive hq]
  rfl

/-- Settles O43: both operations write the directive, run the writes of `XFER_BYTE`, and answer around the event;
a response without a byte leaves the data sink alone. -/
theorem receivesFromIssueToResponse : Obligations.ReceivesFromIssueToResponse := by
  intro q s c rx ha hq byte u
  have hbyte : rx.getD s.data = byte := by cases rx <;> rfl
  have hreceive {i : Instr} {d : StatusOp} (hp : portOf i = .command) (hc : contractOk i = true)
      (hl : stepsOf s.cfg i =
        .check :: (.wrBit .ctrl 6 (directiveBit q) :: xferWrites ++ [.wait, .readStat, .receive d])) :
      execAround 5 3 c rx i s = .next (respond (.ok (some (decodeStatus d s.cfg (codeByte c)))
        (if receiveSuccess (decodeStatus d s.cfg (codeByte c)) then some byte else none)) u) := by
    rw [← hbyte]
    exact execAround_receive c rx hp hc ha (isWrite_of_mem_append_xferWrites (ws := [_]) (by simp [isWrite]))
      (effects_directive_xferWrites hq s) hl
  rw [← codeByte_masked c]
  refine ⟨?mrx, ?srx, fun ts => ?sink⟩
  case mrx => rw [hreceive (i := .mrx true true q) (d := .mrx) rfl (directiveOk_of_defined hq) rfl, mrx_answer]
  case srx => rw [hreceive (i := .srx true true q) (d := .srx) rfl (directiveOk_of_defined hq) rfl, srx_answer]
  case sink =>
    rw [activeFlow_respond, Flow.receive_ok_daSink]
    rfl

/-- Settles O45: each operation checks, writes and answers. -/
theorem stopAndFlagOperationsFromIssueToResponse : Obligations.StopAndFlagOperationsFromIssueToResponse := by
  intro sv dv a s ha
  refine ⟨?stop, ?clrf, ?ien, ?idis, fun hne => ?setcb⟩
  case stop =>
    exact execTimes_check_writes_ok (ws := [.clrBit .ctrl 5, .setBit .ctrl 4, .setBit .ctrl 7]) rfl rfl ha rfl
      (by decide)
  case clrf => exact execTimes_check_writes_ok (ws := [.setBit .ctrl 7]) rfl rfl ha rfl (by decide)
  case ien => exact execTimes_check_writes_ok (ws := [.setBit .ctrl 0]) rfl rfl ha rfl (by decide)
  case idis => exact execTimes_check_writes_ok (ws := [.clrBit .ctrl 0]) rfl rfl ha rfl (by decide)
  case setcb =>
    exact execTimes_check_writes_ok (ws := [.storeCb a]) rfl (decide_eq_true hne) ha rfl (by simp [isWrite])

end Sys2Proof.Machine
end

section
/-! PROOFS. The statements that rest on `43_responder_ops.md` (R150, R153): `SWAIT`, which leaves the flag alone
before its `WAIT`, step by step and whole. -/

namespace Sys2Proof.Machine

open Sys2Proof.Claims

/-- Settles O38: the check, three bit writes of `CTRL` other than the flag's, the poll, the status read and the
decode. -/
theorem swaitStepList : Obligations.SwaitStepList := fun _ _ _ _ =>
  ⟨exec_issue rfl rfl, fun ha => exec_write (m := .clrBit .ctrl 5) rfl ha rfl rfl,
    fun ha => exec_write (m := .clrBit .ctrl 4) rfl ha rfl rfl,
    fun ha => exec_write (m := .setBit .ctrl 6) rfl ha rfl rfl,
    fun ha => exec_wait_set rfl ha rfl, fun ha => exec_wait_clear rfl ha rfl,
    fun ha => exec_readStat rfl ha rfl, fun ha => exec_respondStatus (d := .swait) rfl ha rfl⟩

/-- The writes of `SWAIT` (R150). -/
def listenWrites : List Micro := [.clrBit .ctrl 5, .clrBit .ctrl 4, .setBit .ctrl 6]

theorem stepsOf_swait (c : Config) (sv dv : Bool) (a : Byte) :
    stepsOf c (.swait sv dv a) = .check :: (listenWrites ++ [.wait, .readStat, .respondStatus .swait]) := rfl

theorem effects_listenWrites (s : State) :
    effects listenWrites s = { s with ctrl := { s.ctrl with sta := false, sto := false, ea := true } } := rfl

theorem isWrite_of_mem_listenWrites : ∀ m ∈ listenWrites, isWrite m = true := by decide

/-- A stale code in `STAT` decodes as the code alone, whatever the prescaler (R164): it reads as one that an event
with the same code has just left there. -/
theorem decodeStatus_readReg_stat (d : StatusOp) (cfg : Config) (s : State) :
    decodeStatus d cfg (readReg .stat s) = decodeStatus d cfg (codeByte s.stat.sc5) :=
  decodeStatus_engineComplete d cfg s.stat.sc5 none s

/-- An operation whose writes leave the flag set runs through its `WAIT` without an event, and answers the decode
of the code already in `STAT` (R153, R255). -/
theorem execTimes_respondStatus_of_int {i : Instr} {s u : State} {ws : List Micro} {d : StatusOp}
    (hp : portOf i = .command) (hc : contractOk i = true) (ha : activeSeq s = .idle)
    (hw : ∀ m ∈ ws, isWrite m = true) (hu : effects ws s = u) (hi : u.ctrl.int = true)
    (hl : stepsOf s.cfg i = .check :: (ws ++ [.wait, .readStat, .respondStatus d])) :
    execTimes (ws.length + 4) i s =
      .next (respond (.ok (some (decodeStatus d s.cfg (codeByte u.stat.sc5))) none) u) := by
  have hcfg : u.cfg = s.cfg := by rw [← hu, effects_cfg]
  have hdrop : (stepsOf u.cfg i).drop (1 + ws.length) = [.wait, .readStat, .respondStatus d] := by
    rw [hcfg, hl, Nat.add_comm]
    simp
  have hlast : (stepsOf u.cfg i)[1 + ws.length + 2]? = some (.respondStatus d) := by
    rw [← List.getElem?_drop, hdrop]; rfl
  calc execTimes (ws.length + 4) i s
    _ = execTimes (ws.length + 3) i (goto i 1 Tmp.zero s) := execTimes_succ (exec_issue hp hc ha) _
    _ = execTimes 3 i (goto i (1 + ws.length) Tmp.zero u) := by
      rw [execTimes_writes hp Tmp.zero 3 (by rw [hl]; rfl) hw, hu]
    _ = exec i (goto i (1 + ws.length + 2) { Tmp.zero with b := true, s := readReg .stat u } u) :=
      execTimes_wait_readStat hp hdrop hi
    _ = _ := by rw [exec_goto_respondStatus hp hlast, decodeStatus_readReg_stat, hcfg]

/-- Settles O44: the writes of `SWAIT` keep the flag, so a flag set on entry passes the `WAIT` with the code already
there, and a clear one leaves the `WAIT` to the event. -/
theorem swaitWithAndWithoutAStaleFlag : Obligations.SwaitWithAndWithoutAStaleFlag := by
  intro dv a s c rx ha u answer
  have hanswer (code : Code5) :
      answer (codeByte code) = .ok (some (decodeStatus .swait s.cfg (codeByte code))) none :=
    congrArg answer (codeByte_masked code).symm
  rw [hanswer, hanswer]
  refine ⟨fun hi => ?stale, fun _ => ?event⟩
  case stale =>
    exact execTimes_respondStatus_of_int (d := .swait) rfl rfl ha isWrite_of_mem_listenWrites
      (effects_listenWrites s) hi (stepsOf_swait s.cfg true dv a)
  case event =>
    exact execAround_respondStatus (d := .swait) c rx rfl rfl ha isWrite_of_mem_listenWrites
      (effects_listenWrites s) (stepsOf_swait s.cfg true dv a)

end Sys2Proof.Machine
end

section
/-! PROOFS. The statements that rest on `44_shared_sequences_and_decoder.md`: the check of step 0 (R160), the
`WAIT` (R163), which hangs while the block is disabled (R251, R252), and the decoders (R165 to R175). -/

namespace Sys2Proof.Machine

open Sys2Proof.Claims

/-! ## The check -/

theorem contractOk_of_not_violates {i : Instr} (h : ¬ violates i) : contractOk i = true := by
  cases i with
  | start | rstart | slaw | slar | mtx | swait | stx => exact Bool.eq_true_of_not_eq_false h
  | mrx sv dv q | srx sv dv q =>
    simp only [violates, not_or, not_and_or, not_not, Bool.not_eq_false] at h
    obtain ⟨rfl, rfl, hq⟩ := h
    exact directiveOk_of_defined hq
  | setcb sv dv a => exact decide_eq_true h
  | init | stop | clrf | ien | idis | rd | wr | setb | clrb | wrb | getb => rfl

/-- An idle context that issues a command whose contract is violated is answered at once (R160, R210). -/
theorem exec_issue_violated {i : Instr} {s : State} (hp : portOf i = .command) (hc : contractOk i = false)
    (ha : activeSeq s = .idle) : exec i s = .next (invalidCallOnly s) := by
  rw [exec_eq_runSteps i s hp, runSteps_idle ha (stepsOf_zero s.cfg hp), ← raiseInvalidCall_of_idle ha]
  simp [microStep, hc]

/-- Settles O28: the check decides the table of R160, and a word with `Z` not 00 is a reserved one (R90). -/
theorem contractCheck : Obligations.ContractCheck := by
  refine ⟨fun i s hp ha => ⟨fun hv => ?violation, fun hv => ?passed⟩, fun w s hz ha => ?reserved⟩
  case violation => exact exec_issue_violated hp (contractOk_of_violates hv) ha
  case passed => exact exec_issue hp (contractOk_of_not_violates hv) ha
  case reserved =>
    obtain ⟨-, hwords⟩ := reservedWordsAnswerInvalidCall
    obtain ⟨-, -, hanswer⟩ := hwords .command w
    exact hanswer (.inr hz) s ha

/-! ## The wait -/

/-- An instruction with a step is one of the command port (R120). -/
theorem portOf_of_getElem? {c : Config} {i : Instr} {k : Nat} {m : Micro} (hm : (stepsOf c i)[k]? = some m) :
    portOf i = .command := by
  obtain ⟨hlt, -⟩ := List.getElem?_eq_some_iff.1 hm
  exact portOf_of_lt_length hlt

/-- Settles O29: a `WAIT` is a step of a command, whose poll passes or stutters. -/
theorem waitPollsTheFlag : Obligations.WaitPollsTheFlag := fun _ _ _ _ hm ha =>
  ⟨exec_wait_set (portOf_of_getElem? hm) ha hm, exec_wait_clear (portOf_of_getElem? hm) ha hm⟩

/-- A context at a step is that context with its record set to the step. -/
theorem goto_of_atStep {i : Instr} {k : Nat} {t : Tmp} {s : State} (ha : atStep i k t s) : goto i k t s = s := by
  cases hh : s.inHandler
  · have hq : s.seqMain = .run i k t := by simpa [atStep, activeSeq, hh] using ha
    simp [goto, setActive_of_main hh, ← hq]
  · have hq : s.seqHnd = .run i k t := by simpa [atStep, activeSeq, hh] using ha
    simp [goto, setActive_of_hnd hh, ← hq]

@[simp] theorem nextChoice_goto (i : Instr) (k : Nat) (t : Tmp) (s : State) :
    nextChoice (goto i k t s) = nextChoice s := by simp [nextChoice]

theorem takeChoice_goto (i : Instr) (k : Nat) (t : Tmp) (s : State) :
    takeChoice (goto i k t s) = goto i k t (takeChoice s) := by
  cases hh : s.inHandler <;> simp [goto, setActive, takeChoice, hh]

theorem nextChoice_mem_sched {s : State} (h : s.sched ≠ []) : nextChoice s ∈ s.sched := by
  cases hs : s.sched with
  | nil => exact absurd hs h
  | cons c cs => simp [nextChoice, hs]

theorem turnOf_eq_nextChoice_or_seq (s : State) : turnOf s = nextChoice s ∨ turnOf s = .seq := by
  unfold turnOf
  split
  · exact .inl rfl
  · exact .inr rfl

/-- A disabled block with no pending interrupt leaves every turn but a reset to the active context: the guards of
the engine and of the delivery fail (R191, R193, R220; log entry 2). -/
theorem turnOf_of_disabled {s : State} (hen : s.ctrl.en = false) (hpend : s.irqPend = false)
    (hr : nextChoice s ≠ .reset) : turnOf s = .seq := by
  have hguard : ¬ engineGuard s = true := fun hg => by simp [en_of_engineGuard hg] at hen
  have ha {c : Choice} (ht : turnOf s = c) : admitted c s = true := ht ▸ turnOf_admitted s
  cases ht : turnOf s with
  | seq => rfl
  | complete c rx => exact absurd (engineGuard_of_completeAdmitted (ha ht)) hguard
  | stop => exact absurd (engineGuard_of_stopAdmitted (ha ht)) hguard
  | deliver => simpa [admitted, deliveryEnabled, hpend] using ha ht
  | reset =>
    rcases turnOf_eq_nextChoice_or_seq s with h | h
    · exact absurd (h.symm.trans ht) hr
    · cases h.symm.trans ht

/-- Step `k` of the operation `i` is a `WAIT` for a flag that nothing can raise: the block is disabled, the flag is
clear with no interrupt pending, and no reset is scheduled (R251, R252). -/
structure WaitHangs (i : Instr) (k : Nat) (s : State) : Prop where
  wf : s.cfg.wf = true
  disabled : s.ctrl.en = false
  flagClear : s.ctrl.int = false
  noPending : s.irqPend = false
  noReset : Choice.reset ∉ s.sched
  wait : (stepsOf s.cfg i)[k]? = some .wait

theorem WaitHangs.takeChoice {i : Instr} {k : Nat} {s : State} (h : WaitHangs i k s) :
    WaitHangs i k (takeChoice s) :=
  { h with noReset := fun hm => h.noReset (List.mem_of_mem_tail hm) }

/-- A scheduled step of a hanging operation is one more poll (R163). -/
theorem WaitHangs.step_goto {i : Instr} {k : Nat} {s : State} (h : WaitHangs i k s) (t : Tmp)
    (hs : s.sched ≠ []) :
    step (goto i k t s) = .next (goto i k { t with b := false } (Machine.takeChoice s)) := by
  have hnext : nextChoice s ≠ .reset := fun hn => h.noReset (hn ▸ nextChoice_mem_sched hs)
  have hturn : turnOf (goto i k t s) = .seq :=
    turnOf_of_disabled (by simpa using h.disabled) (by simpa using h.noPending) (by simpa using hnext)
  calc step (goto i k t s)
    _ = contextStep (goto i k t (Machine.takeChoice s)) := by
      rw [step_of_seq (by simpa using h.wf) hturn, takeChoice_goto]
    _ = exec i (goto i k t (Machine.takeChoice s)) := contextStep_of_run (activeSeq_goto i k t _)
    _ = .next (goto i k { t with b := false } (Machine.takeChoice s)) :=
      exec_goto_stutter (portOf_of_getElem? h.wait) h.wait h.flagClear

theorem coreRun_succ (M : Host.Core) {s s' : M.State} (h : M.step s = .next s') (n : Nat) :
    M.run (n + 1) s = M.run n s' := by
  rw [Host.Core.run, h]

theorem stepTimes_succ {s s' : State} (h : step s = .next s') (n : Nat) : stepTimes (n + 1) s = stepTimes n s' :=
  coreRun_succ Sys2Proof.core h n

/-- By induction on the steps: each takes a choice from the schedule and polls once. -/
theorem WaitHangs.stepTimes_goto {i : Instr} {k : Nat} (n : Nat) {s : State} (h : WaitHangs i k s) (t : Tmp)
    (hn : s.sched.length = n) :
    stepTimes n (goto i k t s) = .next
      (goto i k (if n = 0 then t else { t with b := false }) { s with sched := [], tick := s.tick + n }) := by
  induction n generalizing s t with
  | zero =>
    have hs : s.sched = [] := List.eq_nil_of_length_eq_zero hn
    rw [if_pos rfl, ← hs]
    rfl
  | succ n ih =>
    have hs : s.sched ≠ [] := List.ne_nil_of_length_eq_add_one hn
    have htail : (Machine.takeChoice s).sched.length = n := by simp [hn]
    rw [stepTimes_succ (h.step_goto t hs), ih h.takeChoice _ htail]
    simp [Machine.takeChoice, Nat.add_assoc, Nat.add_comm 1]

/-- Settles O46: the hypotheses are those of a hanging operation, whose every step is one more poll. -/
theorem waitHangsWhileDisabled : Obligations.WaitHangsWhileDisabled := by
  intro n i k t s hwf hen hint hpend hn hr hm ha
  have h : WaitHangs i k s := ⟨hwf, hen, hint, hpend, hr, hm⟩
  simpa only [goto_of_atStep ha] using h.stepTimes_goto n t hn

/-! ## The decoders -/

theorem receiveSuccess_decodeMrx (c : Byte) :
    receiveSuccess (decodeMrx c) = decide (c = 0x50#8 ∨ c = 0x58#8) := by
  simp only [decodeMrx, scMrDataAck, scMrDataNack, scArbLost]
  by_cases hack : c = 0x50#8
  · simp [hack, receiveSuccess]
  by_cases hnack : c = 0x58#8
  · simp [hnack, receiveSuccess]
  by_cases hlost : c = 0x38#8 <;> simp [hack, hnack, hlost, receiveSuccess]

theorem receiveSuccess_decodeSrx (c : Byte) :
    receiveSuccess (decodeSrx c) = decide (c = 0x80#8 ∨ c = 0x90#8 ∨ c = 0x88#8 ∨ c = 0x98#8) := by
  simp only [decodeSrx, scSrDataAck, scSrDataNack, scSrGcDataAck, scSrGcDataNack, ← or_assoc (a := c = 0x80#8)]
  by_cases hack : c = 0x80#8 ∨ c = 0x90#8
  · simp [hack, receiveSuccess]
  by_cases hnack : c = 0x88#8 ∨ c = 0x98#8 <;> simp [hack, hnack, receiveSuccess]

/-- Settles O54: the tables are the decoders' own definitions, with the codes' names written out. -/
theorem decodersAreTheSourcesTables : Obligations.DecodersAreTheSourcesTables :=
  ⟨fun _ raw => ⟨rfl, rfl, rfl, rfl, rfl, rfl, receiveSuccess_decodeMrx (statusCode raw), rfl⟩, rfl⟩

/-- Settles O55: the tables are the decoders' own definitions, with the codes' names written out. -/
theorem responderDataDecoders : Obligations.ResponderDataDecoders := fun _ raw =>
  ⟨rfl, receiveSuccess_decodeSrx (statusCode raw), rfl⟩

/-- A decoder reads the status code only (R165, R175 c). -/
theorem decodeStatus_congr (d : StatusOp) (cfg : Config) {raw raw' : Byte} (h : statusCode raw = statusCode raw') :
    decodeStatus d cfg raw = decodeStatus d cfg raw' := by
  cases d <;> simp only [decodeStatus, h]

theorem statusCode_or_low (raw : Byte) {low : Byte} (h : low &&& 0xF8#8 = 0#8) :
    statusCode (raw ||| low) = statusCode raw := by
  simp only [statusCode, BitVec.and_comm _ 0xF8#8, BitVec.and_or_distrib_left] at h ⊢
  rw [h, BitVec.or_zero]

/-- The value of a decision table is one of its answers. -/
theorem ite_mem_cons {α : Type} {p : Prop} [Decidable p] {a x : α} {l : List α} (hx : x ∈ l) :
    (if p then a else x) ∈ a :: l := by
  split
  · exact List.mem_cons_self
  · exact List.mem_cons_of_mem a hx

/-- A table with one code and a generic answer is closed. -/
theorem ite_mem_pair {α : Type} {p : Prop} [Decidable p] (a e : α) : (if p then a else e) ∈ [a, e] :=
  ite_mem_cons (List.mem_singleton_self e)

/-- Settles O56: a decoder reads the masked code, and its table lists the operation's set in order (R175 d). -/
theorem decodersIgnoreTheLowBits : Obligations.DecodersIgnoreTheLowBits := by
  intro d cfg raw low hlow
  refine ⟨decodeStatus_congr d cfg (statusCode_or_low raw hlow), ?closed⟩
  cases d with
  | start | rstart | swait => exact ite_mem_pair _ _
  | srx | stx => exact ite_mem_cons (ite_mem_pair _ _)
  | slaw | slar | mtx | mrx => exact ite_mem_cons (ite_mem_cons (ite_mem_pair _ _))

end Sys2Proof.Machine
end

section
/-! PROOFS. The statements that rest on `45_interrupt_flag_and_callback.md` (R180 to R184): the operations that
check, write once and answer `ok`. -/

namespace Sys2Proof.Machine

open Sys2Proof.Claims

/-- The two steps around the one write, which are the same in the four operations (R180). -/
theorem check_and_respondOk_steps {i : Instr} {m : Micro} {s : State} (t : Tmp) (hp : portOf i = .command)
    (hc : contractOk i = true) (hl : stepsOf s.cfg i = [.check, m, .respondOk]) :
    (activeSeq s = .idle → exec i s = .next (goto i 1 Tmp.zero s)) ∧
    (atStep i 2 t s → exec i s = .next (respond (.ok none none) s)) :=
  ⟨exec_issue hp hc, fun ha => exec_run (m := .respondOk) hp ha (by rw [hl]; rfl)⟩

/-- Settles O39: the four operations share the check, which a reference that is not empty passes, and the answer;
each has its own write between them. -/
theorem flagAndCallbackStepLists : Obligations.FlagAndCallbackStepLists := by
  intro sv dv a s t
  refine ⟨?shared, fun ha => exec_write (m := .setBit .ctrl 7) rfl ha rfl rfl,
    fun ha => exec_write (m := .setBit .ctrl 0) rfl ha rfl rfl,
    fun ha => exec_write (m := .clrBit .ctrl 0) rfl ha rfl rfl,
    fun ha => exec_write (m := .storeCb a) rfl ha rfl rfl⟩
  case shared =>
    rintro i (rfl | rfl | rfl | ⟨rfl, hne⟩)
    case inl | inr.inl | inr.inr.inl => exact check_and_respondOk_steps t rfl rfl rfl
    case inr.inr.inr => exact check_and_respondOk_steps t rfl (decide_eq_true hne) rfl

end Sys2Proof.Machine
end

section
/-! PROOFS. The statements that rest on `46_bus_engine.md`, for both engines: the guard (R191), the turn the choice
of an agent gives (R9, log entry 2), and the two events of the engine (R192, R193). -/

namespace Sys2Proof.Machine

open Sys2Proof.Claims

/-! ## The guard -/

theorem engineGuard_iff (s : State) : engineGuard s = true ↔ s.ctrl.en = true ∧ s.ctrl.int = false := by
  rw [engineGuard, Bool.and_eq_true, Bool.not_eq_true']

theorem stopAdmitted_iff (s : State) :
    stopAdmitted s = true ↔ s.ctrl.en = true ∧ s.ctrl.int = false ∧ s.ctrl.sto = true := by
  rw [stopAdmitted, Bool.and_eq_true, engineGuard_iff, and_assoc]

/-- The unconstrained engine admits every completion under the guard. -/
theorem completeAdmitted_unconstrained {s : State} (he : s.cfg.engine = .unconstrained) (c : Code5)
    (rx : Option Byte) : completeAdmitted s c rx = engineGuard s := by
  rw [completeAdmitted, he, Bool.and_true]

/-! ## The turn -/

theorem turnOf_of_admitted {s : State} {c : Choice} (hn : nextChoice s = c) (ha : admitted c s = true) :
    turnOf s = c := by
  subst hn; exact if_pos ha

/-- A choice whose guard fails gives the turn to the active context (log entry 2). -/
theorem turnOf_of_not_admitted {s : State} {c : Choice} (hn : nextChoice s = c) (ha : ¬ admitted c s = true) :
    turnOf s = .seq := by
  subst hn; exact if_neg ha

/-! ## The events -/

theorem step_of_complete {s : State} {c : Code5} {rx : Option Byte} (hw : s.cfg.wf = true)
    (hn : nextChoice s = .complete c rx) (ha : completeAdmitted s c rx = true) :
    step s = .next (engineComplete c rx (takeChoice s)) := by
  rw [step_eq hw, turnOf_of_admitted hn ha]; rfl

theorem step_of_stop {s : State} (hw : s.cfg.wf = true) (hn : nextChoice s = .stop)
    (ha : stopAdmitted s = true) : step s = .next (engineStop (takeChoice s)) := by
  rw [step_eq hw, turnOf_of_admitted hn ha]; rfl

theorem completePhase_takeChoice (s : State) (c : Code5) (rx : Option Byte) :
    completePhase (takeChoice s) c rx = completePhase s c rx := rfl

/-- Settles O9: the guard is part of the admission, and all of it for the unconstrained engine. -/
theorem completionEventEffect : Obligations.CompletionEventEffect := by
  intro s c rx hw hn
  refine ⟨fun he => ⟨?guard, completePhase_unconstrained he c rx⟩, fun ha => ?event,
    fun ha => turnOf_of_not_admitted hn (Bool.not_eq_true _ ▸ ha)⟩
  case guard => rw [completeAdmitted_unconstrained he, engineGuard_iff]
  case event =>
    obtain ⟨hen, hint⟩ := (engineGuard_iff s).1 (engineGuard_of_completeAdmitted ha)
    refine ⟨hen, hint, ?_⟩
    rw [step_of_complete hw hn ha, engineComplete, completePhase_takeChoice]
    cases rx <;> rfl

/-- Settles O10: the guard is the admission, and the phase is reset under one engine and kept under the other. -/
theorem stopEventEffect : Obligations.StopEventEffect := by
  intro s hw hn
  refine ⟨fun hg => ?event, fun hg => turnOf_of_not_admitted hn (mt (stopAdmitted_iff s).1 hg)⟩
  rw [step_of_stop hw hn ((stopAdmitted_iff s).2 hg), engineStop, takeChoice_cfg]
  cases s.cfg.engine <;> rfl

end Sys2Proof.Machine
end

section
/-! PROOFS. The nominal engine (R199 to R208; G5, log entry 8). In each phase the events have different codes, or
differ in whether a byte was received, so each function of the model is the disjunction of its events. -/

namespace Sys2Proof.Machine

open Sys2Proof.Claims

/-! ## The events of each phase -/

theorem known_iff (q p : Phase) : some (NextPhase.known q) = some (.known p) ↔ p = q := by
  simp [eq_comm]

section
variable {P Q R : Prop} [Decidable P] {e o : Option NextPhase} {p : Phase}

/-- The last test of a phase. -/
theorem last_event_iff (he : e = some (.known p) ↔ R) : (if P then e else none) = some (.known p) ↔ P ∧ R := by
  rw [Option.ite_none_right_eq_some, he]

/-- A test that excludes the events tested after it adds one more to them. -/
theorem event_or_later_iff (he : e = some (.known p) ↔ R) (ho : o = some (.known p) ↔ Q) (hx : P → ¬ Q) :
    (if P then e else o) = some (.known p) ↔ (P ∧ R) ∨ Q := by
  by_cases hP : P
  · simp [hP, hx hP, he]
  · simp [hP, ho]

end

/-- With `EA` set only the first table is open, with `EA` clear only the second. -/
theorem ite_ea_iff {ea : Bool} {a n : Option NextPhase} {p : Phase} {A N : Prop}
    (ha : a = some (.known p) ↔ A) (hn : n = some (.known p) ↔ N) :
    (if ea then a else n) = some (.known p) ↔ (ea = true ∧ A) ∨ (ea = false ∧ N) := by
  cases ea
  · simp [hn]
  · simp [ha]

/-- Addressed while listening (R204). -/
theorem listening_iff (s : State) (c : Byte) (p : Phase) :
    listening s c = some (.known p) ↔ addressed s c p :=
  event_or_later_iff (known_iff _ p)
    (event_or_later_iff (last_event_iff (known_iff _ p)) (last_event_iff (known_iff _ p))
      (by rintro rfl; simp [scSrGcAck]))
    (by rintro rfl; simp [scSrSlaAck])

/-- Arbitration lost to a controller that addresses this block (R201). -/
theorem lostAndAddressed_iff (s : State) (c : Byte) (p : Phase) :
    lostAndAddressed s c = some (.known p) ↔
      (c = 0x68#8 ∧ p = .sr) ∨ (c = 0x78#8 ∧ s.oaddr.getLsbD 0 = true ∧ p = .srGc) ∨ (c = 0xB0#8 ∧ p = .st) :=
  event_or_later_iff (known_iff _ p)
    (event_or_later_iff (last_event_iff (known_iff _ p)) (last_event_iff (known_iff _ p))
      (by rintro rfl; simp [scSrArbGcAck]))
    (by rintro rfl; simp [scSrArbSlaAck])

/-- Controller transmit (R202). -/
theorem transmitPhase_iff (c : Byte) (rx : Option Byte) (p : Phase) :
    transmitPhase c rx = some (.known p) ↔
      (((c = 0x28#8 ∨ c = 0x30#8) ∧ rx = none) ∧ p = .mt) ∨ ((c = 0x38#8 ∧ rx = none) ∧ p = .idle) :=
  event_or_later_iff (known_iff _ p) (last_event_iff (known_iff _ p))
    (by rintro ⟨rfl | rfl, -⟩ <;> simp [scMtDataAck, scMtDataNack])

/-- The address phase (R201): bit 0 of `DATA` is the direction. -/
theorem addressPhase_iff (s : State) (c : Byte) (rx : Option Byte) (p : Phase) :
    addressPhase s c rx = some (.known p) ↔
      (s.data.getLsbD 0 = false ∧ ((c = 0x18#8 ∨ c = 0x20#8) ∧ rx = none) ∧ p = .mt) ∨
      (s.data.getLsbD 0 = true ∧ ((c = 0x40#8 ∨ c = 0x48#8) ∧ rx = none) ∧ p = .mr) ∨
      ((c = 0x38#8 ∧ rx = none) ∧ p = .idle) ∨
      (s.ctrl.ea = true ∧
        ((c = 0x68#8 ∧ p = .sr) ∨ (c = 0x78#8 ∧ s.oaddr.getLsbD 0 = true ∧ p = .srGc) ∨
          (c = 0xB0#8 ∧ p = .st))) := by
  have later := event_or_later_iff (P := c = 0x38#8 ∧ rx = none) (known_iff .idle p)
    (last_event_iff (P := s.ctrl.ea = true) (lostAndAddressed_iff s c p)) (by rintro ⟨rfl, -⟩; simp)
  cases hd : s.data.getLsbD 0
  · simp only [addressPhase, hd, Bool.false_eq_true, if_false, false_and, true_and, false_or]
    exact event_or_later_iff (known_iff _ p) later
      (by rintro ⟨rfl | rfl, -⟩ <;> simp [scMtSlaAck, scMtSlaNack])
  · simp only [addressPhase, hd, if_true, Bool.true_eq_false, false_and, true_and, false_or]
    exact event_or_later_iff (known_iff _ p) later
      (by rintro ⟨rfl | rfl, -⟩ <;> simp [scMrSlaAck, scMrSlaNack])

/-- Controller receive (R203). -/
theorem receivePhase_iff (s : State) (c : Byte) (rx : Option Byte) (p : Phase) :
    receivePhase s c rx = some (.known p) ↔
      (s.ctrl.ea = true ∧ (c = 0x50#8 ∧ rx.isSome) ∧ p = .mr) ∨
      (s.ctrl.ea = false ∧ (((c = 0x58#8 ∧ rx.isSome) ∧ p = .mr) ∨ ((c = 0x38#8 ∧ rx = none) ∧ p = .idle))) :=
  ite_ea_iff (last_event_iff (known_iff _ p))
    (event_or_later_iff (known_iff _ p) (last_event_iff (known_iff _ p)) (by rintro ⟨rfl, -⟩; simp [scMrDataNack]))

/-- Responder receive (R205), on the path with the phase `q` and the codes `ack` and `nack`: the end of the
transfer carries no byte. -/
theorem responderReceive_iff (s : State) (q : Phase) (ack nack c : Byte) (rx : Option Byte) (p : Phase) :
    responderReceive s q ack nack c rx = some (.known p) ↔
      ((s.ctrl.ea = true ∧ (c = ack ∧ rx.isSome) ∧ p = q) ∨
        (s.ctrl.ea = false ∧ (c = nack ∧ rx.isSome) ∧ p = .idle)) ∨
      ((c = 0xA0#8 ∧ rx = none) ∧ p = .idle) :=
  Iff.trans (event_or_later_iff (known_iff _ p)
    (ite_ea_iff (last_event_iff (known_iff _ p)) (last_event_iff (known_iff _ p)))
    (by rintro ⟨-, rfl⟩; simp)) or_comm

/-- Responder transmit (R206). -/
theorem responderTransmit_iff (s : State) (c : Byte) (rx : Option Byte) (p : Phase) :
    responderTransmit s c rx = some (.known p) ↔
      ((s.ctrl.ea = true ∧ (c = 0xB8#8 ∧ rx = none) ∧ p = .st) ∨
        (s.ctrl.ea = false ∧ (c = 0xC8#8 ∧ rx = none) ∧ p = .idle)) ∨
      ((c = 0xC0#8 ∧ rx = none) ∧ p = .idle) :=
  Iff.trans (event_or_later_iff (known_iff _ p)
    (ite_ea_iff (last_event_iff (known_iff _ p)) (last_event_iff (known_iff _ p)))
    (by rintro ⟨rfl, -⟩; simp [scStDataNack, scStDataAck, scStLastAck])) or_comm

/-! ## Admission -/

/-- Under `nominal` and the guard an event is admitted without a draw exactly when the table names its phase. -/
theorem admits_iff {s : State} (he : s.cfg.engine = .nominal) (hg : engineGuard s = true) (c : Code5)
    (rx : Option Byte) (p : Phase) : admits s c rx p ↔ nominalNext s (codeByte c) rx = some (.known p) := by
  rw [admits, completeAdmitted, completePhase, he, hg]
  rcases nominalNext s (codeByte c) rx with _ | _ | _ <;> simp

/-- In the phase `q` with no stop request the engine's answer is that of `nominalNext` at `q` and `sta`, which
computes to the table of the phase. -/
theorem admits_iff_of_nominalIn {s : State} {q : Phase} {sta : Bool} (h : nominalIn q sta s) {c : Code5}
    {rx : Option Byte} {p : Phase} {Q : Prop}
    (hQ : nominalNext { s with ctrl := { s.ctrl with sto := false, sta := sta }, phase := q } (codeByte c) rx =
      some (.known p) ↔ Q) :
    admits s c rx p ↔ Q := by
  obtain ⟨he, hen, hint, hsto, rfl, rfl⟩ := h
  rw [← hsto] at hQ
  exact (admits_iff he ((engineGuard_iff s).2 ⟨hen, hint⟩) c rx p).trans hQ

/-- A start request while listening (R200, R204). -/
theorem admits_idle_start_iff {s : State} (h : nominalIn .idle true s) (c : Code5) (rx : Option Byte) (p : Phase) :
    admits s c rx p ↔
      ((codeByte c = 0x08#8 ∧ rx = none) ∧ p = .mStart) ∨ (s.ctrl.ea = true ∧ addressed s (codeByte c) p) :=
  admits_iff_of_nominalIn h
    (event_or_later_iff (known_iff _ p) (last_event_iff (listening_iff s _ p))
      (by rintro ⟨hc, -⟩; simp [hc, addressed, scStart]))

/-- Where no rule names the combination the phase is a draw (R208). -/
theorem nominalNext_unnamed {s : State} (hsta : s.ctrl.sta = true)
    (h : s.ctrl.sto = true ∨ s.phase = .sr ∨ s.phase = .srGc ∨ s.phase = .st) (c : Byte) (rx : Option Byte) :
    nominalNext s c rx = some .draw := by
  unfold nominalNext
  cases hsto : s.ctrl.sto
  · rcases h with h | h | h | h
    · exact absurd (hsto.symm.trans h) nofun
    all_goals rw [h, hsta]; rfl
  · rw [hsta]; rfl

/-- A stop request alone lets no completion happen (R207). -/
theorem nominalNext_stop {s : State} (hsto : s.ctrl.sto = true) (hsta : s.ctrl.sta = false) (c : Byte)
    (rx : Option Byte) : nominalNext s c rx = none := by
  rw [nominalNext, hsto, hsta]; rfl

/-! ## The statements -/

/-- Settles O13: the table has no entry in the first case and a draw in the second. -/
theorem nominalStopAndUnnamedCombinations : Obligations.NominalStopAndUnnamedCombinations := by
  intro s he hen hint
  have hg : engineGuard s = true := (engineGuard_iff s).2 ⟨hen, hint⟩
  refine ⟨fun hsto hsta => ⟨fun c rx => ?none, (stopAdmitted_iff s).2 ⟨hen, hint, hsto⟩⟩,
    fun hsta h c rx => ?draw⟩
  case none => simp [completeAdmitted, he, nominalNext_stop hsto hsta]
  case draw => simp [completeAdmitted, completePhase, he, hg, nominalNext_unnamed hsta h]

/-- Settles O11: each clause is the table of its phase; the three phases with a start request share one. -/
theorem nominalControllerEvents : Obligations.NominalControllerEvents := by
  intro s c rx p
  refine ⟨fun h => ?start, ?rstart, fun h => ?address, fun h => ?transmit, fun h => ?receive⟩
  case start => simpa only [and_assoc] using admits_idle_start_iff h c rx p
  case rstart =>
    rintro (h | h | h) <;>
      exact (admits_iff_of_nominalIn h (last_event_iff (known_iff _ p))).trans and_assoc
  case address => simpa only [and_assoc] using admits_iff_of_nominalIn h (addressPhase_iff s _ rx p)
  case transmit => simpa only [and_assoc] using admits_iff_of_nominalIn h (transmitPhase_iff _ rx p)
  case receive =>
    simpa only [and_assoc, and_or_left, Option.isSome_iff_ne_none] using
      admits_iff_of_nominalIn h (receivePhase_iff s _ rx p)

/-- Settles O12: each clause is the table of its phase; the two receiving paths share one, with their own codes. -/
theorem nominalResponderEvents : Obligations.NominalResponderEvents := by
  intro s c rx p
  refine ⟨fun h => admits_iff_of_nominalIn h (last_event_iff (listening_iff s _ p)),
    fun h hea ha => (admits_idle_start_iff h c rx p).2 (.inr ⟨hea, ha⟩), fun h => ?sr, fun h => ?srGc,
    fun h => ?st⟩
  case sr =>
    simpa only [and_assoc, or_assoc, Option.isSome_iff_ne_none] using
      admits_iff_of_nominalIn h (responderReceive_iff s .sr 0x80#8 0x88#8 _ rx p)
  case srGc =>
    simpa only [and_assoc, or_assoc, Option.isSome_iff_ne_none] using
      admits_iff_of_nominalIn h (responderReceive_iff s .srGc 0x90#8 0x98#8 _ rx p)
  case st =>
    simpa only [and_assoc, or_assoc] using admits_iff_of_nominalIn h (responderTransmit_iff s _ rx p)

end Sys2Proof.Machine
end

section
/-! PROOFS. The statements that rest on `60_exceptions.md`: the delivery of the completion interrupt (R220 to R223)
and the return from the handler (R225). -/

namespace Sys2Proof.Machine

open Sys2Proof.Claims

/-! ## The delivery -/

theorem deliveryEnabled_iff (s : State) :
    deliveryEnabled s = true ↔ s.irqPend = true ∧ s.ctrl.ie = true ∧ s.inHandler = false := by
  rw [deliveryEnabled, Bool.and_eq_true, Bool.and_eq_true, Bool.not_eq_true', and_assoc]

/-- A chosen delivery under its guard is the step. -/
theorem step_of_deliveryEnabled {s : State} (hw : s.cfg.wf = true) (hn : nextChoice s = .deliver)
    (hg : deliveryEnabled s = true) : step s = deliver (takeChoice s) :=
  step_of_deliver hw (turnOf_of_admitted hn hg)

theorem deliver_of_empty_fault {s : State} (hc : s.cb = 0#8) (hp : s.cfg.emptySlot = .fault) :
    deliver s = .fault .emptySlotDelivery := by simp [deliver, hc, hp]

theorem deliver_of_empty_noop {s : State} (hc : s.cb = 0#8) (hp : s.cfg.emptySlot = .noop) :
    deliver s = .next { s with irqPend := false } := by simp [deliver, hc, hp]

/-- Interrupt entry: what the delivery of a registered reference writes (R221, R223). -/
theorem deliver_of_registered {s : State} {p : List PortWord} (hc : s.cb ≠ 0#8)
    (hp : handlerProgram s.cb s.cfg.handlers = some p) :
    deliver s = .next { s with
      irqPend := false, inHandler := true, seqHnd := .idle, hostHnd := { s.hostHnd with prog := p } } := by
  simp [deliver, hc, hp]

theorem deliver_of_unregistered {s : State} (hc : s.cb ≠ 0#8) (hp : handlerProgram s.cb s.cfg.handlers = none) :
    deliver s = .refused .unknownHandler := by simp [deliver, hc, hp]

/-! ## The return -/

/-- The handler's turn with no word left and an idle sequencer is its return (R225; log entry 20). -/
theorem contextStep_of_handlerDone {s : State} (hh : s.inHandler = true) (hidle : s.seqHnd = .idle)
    (hprog : s.hostHnd.prog = []) : contextStep s = .next (handlerReturn s) := by
  have ha : activeSeq s = .idle := by simpa [activeSeq, hh] using hidle
  have hn : nextWord s = none := by simp [nextWord, activeFlow, hh, hprog]
  rw [contextStep_of_done ha hn, if_pos hh]

/-! ## The statements -/

/-- Settles O14: the lookup finds a program exactly where the list has a first pair with the reference. -/
theorem interruptEntry : Obligations.InterruptEntry := by
  intro s hw hn hpend hie hh hc
  rw [step_of_deliveryEnabled hw hn ((deliveryEnabled_iff s).2 ⟨hpend, hie, hh⟩)]
  refine ⟨fun before prog after hs hb => ?registered, fun hno => ?unregistered⟩
  case registered => exact deliver_of_registered hc (handlerProgram_eq_some.2 ⟨before, after, hs, hb⟩)
  case unregistered => exact deliver_of_unregistered hc (handlerProgram_eq_none.2 hno)

/-- Settles O15, by policy. -/
theorem deliveryToTheEmptySlot : Obligations.DeliveryToTheEmptySlot := by
  refine ⟨rfl, fun s hw hn hpend hie hh hc => ?_⟩
  rw [step_of_deliveryEnabled hw hn ((deliveryEnabled_iff s).2 ⟨hpend, hie, hh⟩)]
  exact ⟨fun hp => deliver_of_empty_fault hc hp, fun hp => deliver_of_empty_noop hc hp⟩

/-- Settles O16: a turn that is the delivery's was admitted, and a choice gets its own turn or the context's. -/
theorem deliveryOnlyUnderItsGuard : Obligations.DeliveryOnlyUnderItsGuard := by
  intro s hn
  rw [← deliveryEnabled_iff]
  refine ⟨⟨fun ht => ?guard, turnOf_of_admitted hn⟩, fun hne => ?otherwise⟩
  case guard =>
    have ha : admitted .deliver s = true := ht ▸ turnOf_admitted s
    exact ha
  case otherwise => exact turnOf_of_not_admitted hn fun ha => hne (turnOf_of_admitted hn ha)

/-- Settles O17: a handler with no word left and an idle sequencer is done. -/
theorem handlerReturns : Obligations.HandlerReturn := by
  intro s hw ht hh hidle hprog
  exact (step_of_seq hw ht).trans (contextStep_of_handlerDone (by simpa using hh) (by simpa using hidle)
    (by simpa using hprog))

end Sys2Proof.Machine
end

section
/-! PROOFS. The statement that rests on `70_reset_and_hazards.md` (R260). -/

namespace Sys2Proof.Machine

open Sys2Proof.Claims

/-- The divisor of R260 as a rational. -/
theorem busDivisor_cast (s : State) :
    (busDivisor s : Rat) = 16 + 2 * (s.brg.toNat : Rat) * 4 ^ s.stat.ps.toNat := by
  rw [busDivisor]; push_cast; rfl

/-- `4^PS` of a pattern is the multiplier it stands for (R94). -/
theorem four_pow_prescalerPattern (p : Prescaler) : 4 ^ (prescalerPattern p).toNat = prescalerMultiplier p := by
  cases p <;> rfl

theorem busClock_of_busDivisor {s : State} {d : Nat} (f : Rat) (h : busDivisor s = d) : busClock f s = f / d := by
  rw [busClock, h]

/-- Settles O57: the divisors of the two worked values are 80 and 36. -/
theorem busClockFormula : Obligations.BusClockFormula := by
  refine ⟨fun f s => congrArg (f / ·) (busDivisor_cast s), ?rate32, ?rate10, rfl, rfl, rfl, rfl, rfl, rfl, rfl, rfl,
    four_pow_prescalerPattern⟩
  case rate32 => rw [busClock_of_busDivisor (d := 80) _ rfl]; norm_num
  case rate10 => rw [busClock_of_busDivisor (d := 36) _ rfl]; norm_num

end Sys2Proof.Machine
end
